-- ==== Sys2Proof/Word.lean ====
section
/-!
DEFINITION. Sys2Proof/Word.lean: the value types of TSS4J-CORE.
`Word` is one 32-bit host word or command word (R8), `Byte` one buffer byte (R34), `Val` the contents of an operand
register (R30, R31), `Offset` a 12-bit window offset (R71), `Reg` the index of an operand register (R30).
-/

namespace Sys2Proof

abbrev Word := BitVec 32
abbrev Byte := BitVec 8
abbrev Val := BitVec 256
abbrev Offset := BitVec 12
abbrev Reg := Fin 32

end Sys2Proof
end

