-- ==== Sys2Proof/Syntax.lean ====
section
/-!
DEFINITION. Sys2Proof/Syntax.lean: the commands of TSS4J-CORE/1, one constructor per row of spec/opcode_table.json (R105).
An operand is the 5-bit value of its field: a register index, the base of a triple (R33), the base of KEYGEN's quad, or
LDC's constant index. The limits of R101 on these are in WellFormed.
-/

namespace Sys2Proof

inductive Instr
  -- engine control (40)
  | nop
  | ldc (rd k : Reg)
  -- modular arithmetic (41)
  | modmul (rd rs1 rs2 rs3 : Reg)
  | modmulS (rd rs1 rs2 rs3 : Reg)
  | modinv (rd rs1 rs3 : Reg)
  | modinvS (rd rs1 rs3 : Reg)
  | modexp (rd rs1 rs2 rs3 : Reg)
  | modexpS (rd rs1 rs2 rs3 : Reg)
  -- point arithmetic (42)
  | padd (rd rs1 rs2 : Reg)
  | pdbl (rd rs1 : Reg)
  | pneg (rd rs1 : Reg)
  | psub (rd rs1 rs2 : Reg)
  | paff (rd rs1 : Reg)
  -- scalar multiplication (43)
  | pmul (rd rs1 rs2 : Reg)
  | pmulS (rd rs1 rs2 : Reg)
  | pmulg (rd rs1 : Reg)
  | pmulgS (rd rs1 : Reg)
  -- point encoding, decoding, validity, equality (44)
  | pencC (rs1 : Reg)
  | pencU (rs1 : Reg)
  | pencX (rs1 : Reg)
  | pdec (rd : Reg)
  | pdecX (rd : Reg)
  | pvalid (rs1 : Reg)
  | peq (rs1 rs2 : Reg)
  -- key generation and signatures (45)
  | keygen (rd : Reg)
  | ecdsaSign (rs1 rs2 rs3 : Reg)
  | ecdsaSignR (rs1 rs2 : Reg)
  | ecdsaVerify (rs1 rs2 : Reg)
  | ecdsaRecover (rd rs2 : Reg)
  | schnorrSign (rs1 rs2 : Reg)
  | schnorrVerify (rs1 : Reg)
  | tapTweak (rd rs1 rs2 : Reg)
  | tapTweakN (rd rs1 : Reg)
  | tapSign (rs1 rs2 rs3 : Reg)
  | tapSignN (rs1 rs3 : Reg)
  | tapVerify (rs1 rs2 : Reg)
  | tapVerifyN (rs1 : Reg)
  -- hash to curve (46)
  | h2c (rd : Reg)
  deriving DecidableEq, Repr

end Sys2Proof
end

