-- ==== Sys2Proof/WellFormed.lean ====
section
/-!
DEFINITION. Sys2Proof/WellFormed.lean: the operand limits of R101 (a value outside them makes the command ILLEGAL, R107 d).
A register operand has no limit beyond its five bits.
-/

namespace Sys2Proof

/-- A triple x[v], x[v+1], x[v+2] needs v ≤ 29 (R101, R33). -/
def tripleOk (v : Reg) : Bool := v.val ≤ 29

/-- KEYGEN's quad x[v] .. x[v+3] needs v ≤ 28 (R101, R214). -/
def quadOk (v : Reg) : Bool := v.val ≤ 28

/-- LDC's constant index needs v ≤ 6 (R101, R127). -/
def constOk (v : Reg) : Bool := v.val ≤ 6

def Instr.wf : Instr → Bool
  | .nop => true
  | .ldc _ k => constOk k
  | .modmul _ _ _ _ => true
  | .modmulS _ _ _ _ => true
  | .modinv _ _ _ => true
  | .modinvS _ _ _ => true
  | .modexp _ _ _ _ => true
  | .modexpS _ _ _ _ => true
  | .padd rd rs1 rs2 => tripleOk rd && tripleOk rs1 && tripleOk rs2
  | .pdbl rd rs1 => tripleOk rd && tripleOk rs1
  | .pneg rd rs1 => tripleOk rd && tripleOk rs1
  | .psub rd rs1 rs2 => tripleOk rd && tripleOk rs1 && tripleOk rs2
  | .paff rd rs1 => tripleOk rd && tripleOk rs1
  | .pmul rd rs1 _ => tripleOk rd && tripleOk rs1
  | .pmulS rd rs1 _ => tripleOk rd && tripleOk rs1
  | .pmulg rd _ => tripleOk rd
  | .pmulgS rd _ => tripleOk rd
  | .pencC rs1 => tripleOk rs1
  | .pencU rs1 => tripleOk rs1
  | .pencX rs1 => tripleOk rs1
  | .pdec rd => tripleOk rd
  | .pdecX rd => tripleOk rd
  | .pvalid rs1 => tripleOk rs1
  | .peq rs1 rs2 => tripleOk rs1 && tripleOk rs2
  | .keygen rd => quadOk rd
  | .ecdsaSign _ _ _ => true
  | .ecdsaSignR _ _ => true
  | .ecdsaVerify rs1 _ => tripleOk rs1
  | .ecdsaRecover rd _ => tripleOk rd
  | .schnorrSign _ _ => true
  | .schnorrVerify _ => true
  | .tapTweak _ _ _ => true
  | .tapTweakN _ _ => true
  | .tapSign _ _ _ => true
  | .tapSignN _ _ => true
  | .tapVerify _ _ => true
  | .tapVerifyN _ => true
  | .h2c rd => tripleOk rd

end Sys2Proof
end

