-- ==== Sys2Proof/Decode.lean ====
section
/-!
DEFINITION. Sys2Proof/Decode.lean: format CMD32 (R100), the rows of R105, the total decoder of R106 that rejects by the
classes of R107, and the encoder of R109.
-/

namespace Sys2Proof

/-- The classes of illegal encodings, R107 (a) to (d). The machine gives all of them code 1 (R128). -/
inductive Illegal
  | opcode
  | mode
  | unusedField
  | range
  deriving DecidableEq, Repr

/-- The operand kinds of R101; `unused` is a dash of R105. -/
inductive FieldKind
  | unused
  | reg
  | triple
  | quad
  | const
  deriving DecidableEq, Repr

structure Fields where
  rd : Reg
  rs1 : Reg
  rs2 : Reg
  rs3 : Reg
  deriving DecidableEq, Repr

/-- One row of R105: its opcode and mode, the kind of each field, and the command it names. -/
structure Row where
  opc : BitVec 8
  mode : BitVec 4
  rd : FieldKind
  rs1 : FieldKind
  rs2 : FieldKind
  rs3 : FieldKind
  build : Fields → Instr

/-! ## Fields of a command word (R100) -/

def opcOf (w : Word) : BitVec 8 := w.extractLsb' 0 8
def rdOf (w : Word) : Reg := (w.extractLsb' 8 5).toFin
def rs1Of (w : Word) : Reg := (w.extractLsb' 13 5).toFin
def rs2Of (w : Word) : Reg := (w.extractLsb' 18 5).toFin
def rs3Of (w : Word) : Reg := (w.extractLsb' 23 5).toFin
def modeOf (w : Word) : BitVec 4 := w.extractLsb' 28 4

def fieldsOf (w : Word) : Fields := ⟨rdOf w, rs1Of w, rs2Of w, rs3Of w⟩

/-! ## The opcode map (R104) and the fields of each command (R105) -/

def engineRows : List Row :=
  [ ⟨0x00, 0, .unused, .unused, .unused, .unused, fun _ => .nop⟩,
    ⟨0x01, 0, .reg, .const, .unused, .unused, fun f => .ldc f.rd f.rs1⟩ ]

def modularRows : List Row :=
  [ ⟨0x10, 0, .reg, .reg, .reg, .reg, fun f => .modmul f.rd f.rs1 f.rs2 f.rs3⟩,
    ⟨0x11, 0, .reg, .reg, .reg, .reg, fun f => .modmulS f.rd f.rs1 f.rs2 f.rs3⟩,
    ⟨0x12, 0, .reg, .reg, .unused, .reg, fun f => .modinv f.rd f.rs1 f.rs3⟩,
    ⟨0x13, 0, .reg, .reg, .unused, .reg, fun f => .modinvS f.rd f.rs1 f.rs3⟩,
    ⟨0x14, 0, .reg, .reg, .reg, .reg, fun f => .modexp f.rd f.rs1 f.rs2 f.rs3⟩,
    ⟨0x15, 0, .reg, .reg, .reg, .reg, fun f => .modexpS f.rd f.rs1 f.rs2 f.rs3⟩ ]

def pointRows : List Row :=
  [ ⟨0x20, 0, .triple, .triple, .triple, .unused, fun f => .padd f.rd f.rs1 f.rs2⟩,
    ⟨0x21, 0, .triple, .triple, .unused, .unused, fun f => .pdbl f.rd f.rs1⟩,
    ⟨0x22, 0, .triple, .triple, .unused, .unused, fun f => .pneg f.rd f.rs1⟩,
    ⟨0x23, 0, .triple, .triple, .triple, .unused, fun f => .psub f.rd f.rs1 f.rs2⟩,
    ⟨0x24, 0, .triple, .triple, .unused, .unused, fun f => .paff f.rd f.rs1⟩ ]

def scalarRows : List Row :=
  [ ⟨0x30, 0, .triple, .triple, .reg, .unused, fun f => .pmul f.rd f.rs1 f.rs2⟩,
    ⟨0x31, 0, .triple, .triple, .reg, .unused, fun f => .pmulS f.rd f.rs1 f.rs2⟩,
    ⟨0x32, 0, .triple, .reg, .unused, .unused, fun f => .pmulg f.rd f.rs1⟩,
    ⟨0x33, 0, .triple, .reg, .unused, .unused, fun f => .pmulgS f.rd f.rs1⟩ ]

def encodingRows : List Row :=
  [ ⟨0x40, 0, .unused, .triple, .unused, .unused, fun f => .pencC f.rs1⟩,
    ⟨0x40, 1, .unused, .triple, .unused, .unused, fun f => .pencU f.rs1⟩,
    ⟨0x40, 2, .unused, .triple, .unused, .unused, fun f => .pencX f.rs1⟩,
    ⟨0x41, 0, .triple, .unused, .unused, .unused, fun f => .pdec f.rd⟩,
    ⟨0x41, 1, .triple, .unused, .unused, .unused, fun f => .pdecX f.rd⟩,
    ⟨0x42, 0, .unused, .triple, .unused, .unused, fun f => .pvalid f.rs1⟩,
    ⟨0x43, 0, .unused, .triple, .triple, .unused, fun f => .peq f.rs1 f.rs2⟩ ]

def ecdsaRows : List Row :=
  [ ⟨0x50, 0, .quad, .unused, .unused, .unused, fun f => .keygen f.rd⟩,
    ⟨0x51, 0, .unused, .reg, .reg, .reg, fun f => .ecdsaSign f.rs1 f.rs2 f.rs3⟩,
    ⟨0x51, 1, .unused, .reg, .reg, .unused, fun f => .ecdsaSignR f.rs1 f.rs2⟩,
    ⟨0x52, 0, .unused, .triple, .reg, .unused, fun f => .ecdsaVerify f.rs1 f.rs2⟩,
    ⟨0x53, 0, .triple, .unused, .reg, .unused, fun f => .ecdsaRecover f.rd f.rs2⟩ ]

def schnorrRows : List Row :=
  [ ⟨0x54, 0, .unused, .reg, .reg, .unused, fun f => .schnorrSign f.rs1 f.rs2⟩,
    ⟨0x55, 0, .unused, .reg, .unused, .unused, fun f => .schnorrVerify f.rs1⟩,
    ⟨0x56, 0, .reg, .reg, .reg, .unused, fun f => .tapTweak f.rd f.rs1 f.rs2⟩,
    ⟨0x56, 1, .reg, .reg, .unused, .unused, fun f => .tapTweakN f.rd f.rs1⟩,
    ⟨0x57, 0, .unused, .reg, .reg, .reg, fun f => .tapSign f.rs1 f.rs2 f.rs3⟩,
    ⟨0x57, 1, .unused, .reg, .unused, .reg, fun f => .tapSignN f.rs1 f.rs3⟩,
    ⟨0x58, 0, .unused, .reg, .reg, .unused, fun f => .tapVerify f.rs1 f.rs2⟩,
    ⟨0x58, 1, .unused, .reg, .unused, .unused, fun f => .tapVerifyN f.rs1⟩ ]

def hashRows : List Row :=
  [ ⟨0x60, 0, .triple, .unused, .unused, .unused, fun f => .h2c f.rd⟩ ]

/-- The 38 rows of R105. -/
def rows : List Row :=
  engineRows ++ modularRows ++ pointRows ++ scalarRows ++ encodingRows ++ ecdsaRows ++ schnorrRows ++ hashRows

/-- R107 (c): a field that the row does not use must be 0. -/
def FieldKind.zeroOk (k : FieldKind) (v : Reg) : Bool :=
  match k with
  | .unused => v.val == 0
  | _ => true

/-- R101: the range limit of a used field. -/
def FieldKind.rangeOk (k : FieldKind) (v : Reg) : Bool :=
  match k with
  | .unused => true
  | .reg => true
  | .triple => tripleOk v
  | .quad => quadOk v
  | .const => constOk v

def Row.unusedZero (r : Row) (f : Fields) : Bool :=
  r.rd.zeroOk f.rd && r.rs1.zeroOk f.rs1 && r.rs2.zeroOk f.rs2 && r.rs3.zeroOk f.rs3

def Row.inRange (r : Row) (f : Fields) : Bool :=
  r.rd.rangeOk f.rd && r.rs1.rangeOk f.rs1 && r.rs2.rangeOk f.rs2 && r.rs3.rangeOk f.rs3

/-- The row's `match` value of R105: opcode and mode in place, every other bit 0. -/
def Row.pattern (r : Row) : Word := r.mode ++ (0 : BitVec 20) ++ r.opc

def FieldKind.maskBits (k : FieldKind) : BitVec 5 :=
  match k with
  | .unused => 0x1F
  | _ => 0

/-- The row's `mask` value of R105: the opcode, the mode and every unused field. -/
def Row.mask (r : Row) : Word :=
  (0xF : BitVec 4) ++ r.rs3.maskBits ++ r.rs2.maskBits ++ r.rs1.maskBits ++ r.rd.maskBits ++ (0xFF : BitVec 8)

/-- R106: total on all 2^32 words; every word that no row accepts is rejected by the class of R107 it falls in. -/
def decode (w : Word) : Except Illegal Instr :=
  if rows.all (fun r => r.opc != opcOf w) then .error .opcode
  else
    match rows.find? (fun r => r.opc == opcOf w && r.mode == modeOf w) with
    | none => .error .mode
    | some r =>
      if !r.unusedZero (fieldsOf w) then .error .unusedField
      else if !r.inRange (fieldsOf w) then .error .range
      else .ok (r.build (fieldsOf w))

/-! ## The encoder (R109) -/

/-- The fields in the places of R100, most significant first: MODE, RS3, RS2, RS1, RD, OPC. -/
def pack (opc : BitVec 8) (mode : BitVec 4) (rd rs1 rs2 rs3 : Reg) : Word :=
  mode ++ BitVec.ofFin (w := 5) rs3 ++ BitVec.ofFin (w := 5) rs2 ++ BitVec.ofFin (w := 5) rs1 ++
    BitVec.ofFin (w := 5) rd ++ opc

/-- The word of a command, with every unused field 0 (R109). -/
def encode : Instr → Word
  | .nop => pack 0x00 0 0 0 0 0
  | .ldc rd k => pack 0x01 0 rd k 0 0
  | .modmul rd rs1 rs2 rs3 => pack 0x10 0 rd rs1 rs2 rs3
  | .modmulS rd rs1 rs2 rs3 => pack 0x11 0 rd rs1 rs2 rs3
  | .modinv rd rs1 rs3 => pack 0x12 0 rd rs1 0 rs3
  | .modinvS rd rs1 rs3 => pack 0x13 0 rd rs1 0 rs3
  | .modexp rd rs1 rs2 rs3 => pack 0x14 0 rd rs1 rs2 rs3
  | .modexpS rd rs1 rs2 rs3 => pack 0x15 0 rd rs1 rs2 rs3
  | .padd rd rs1 rs2 => pack 0x20 0 rd rs1 rs2 0
  | .pdbl rd rs1 => pack 0x21 0 rd rs1 0 0
  | .pneg rd rs1 => pack 0x22 0 rd rs1 0 0
  | .psub rd rs1 rs2 => pack 0x23 0 rd rs1 rs2 0
  | .paff rd rs1 => pack 0x24 0 rd rs1 0 0
  | .pmul rd rs1 rs2 => pack 0x30 0 rd rs1 rs2 0
  | .pmulS rd rs1 rs2 => pack 0x31 0 rd rs1 rs2 0
  | .pmulg rd rs1 => pack 0x32 0 rd rs1 0 0
  | .pmulgS rd rs1 => pack 0x33 0 rd rs1 0 0
  | .pencC rs1 => pack 0x40 0 0 rs1 0 0
  | .pencU rs1 => pack 0x40 1 0 rs1 0 0
  | .pencX rs1 => pack 0x40 2 0 rs1 0 0
  | .pdec rd => pack 0x41 0 rd 0 0 0
  | .pdecX rd => pack 0x41 1 rd 0 0 0
  | .pvalid rs1 => pack 0x42 0 0 rs1 0 0
  | .peq rs1 rs2 => pack 0x43 0 0 rs1 rs2 0
  | .keygen rd => pack 0x50 0 rd 0 0 0
  | .ecdsaSign rs1 rs2 rs3 => pack 0x51 0 0 rs1 rs2 rs3
  | .ecdsaSignR rs1 rs2 => pack 0x51 1 0 rs1 rs2 0
  | .ecdsaVerify rs1 rs2 => pack 0x52 0 0 rs1 rs2 0
  | .ecdsaRecover rd rs2 => pack 0x53 0 rd 0 rs2 0
  | .schnorrSign rs1 rs2 => pack 0x54 0 0 rs1 rs2 0
  | .schnorrVerify rs1 => pack 0x55 0 0 rs1 0 0
  | .tapTweak rd rs1 rs2 => pack 0x56 0 rd rs1 rs2 0
  | .tapTweakN rd rs1 => pack 0x56 1 rd rs1 0 0
  | .tapSign rs1 rs2 rs3 => pack 0x57 0 0 rs1 rs2 rs3
  | .tapSignN rs1 rs3 => pack 0x57 1 0 rs1 0 rs3
  | .tapVerify rs1 rs2 => pack 0x58 0 0 rs1 rs2 0
  | .tapVerifyN rs1 => pack 0x58 1 0 rs1 0 0
  | .h2c rd => pack 0x60 0 rd 0 0 0

/-- The host's reading of one opcode-table word: a command is one 32-bit word (R100), so the bits of the table are the
bits of the word and nothing lies above them. -/
def decodeTableWord (nbits w : Nat) : Option Instr :=
  if nbits ≤ 32 then (decode (BitVec.ofNat 32 (w % 2 ^ nbits))).toOption else none

end Sys2Proof
end

