-- ==== Sys2Proof/Machine/Constants.lean ====
section
/-!
DEFINITION. Sys2Proof/Machine/Constants.lean: the fixed numbers of the block (R8, R41, R48). They are not state (R50).
-/

namespace Sys2Proof.Machine

/-- The field prime, 2^256 − 2^32 − 977 (R48). -/
abbrev p : Nat := 0xFFFFFFFFFFFFFFFFFFFFFFFFFFFFFFFFFFFFFFFFFFFFFFFFFFFFFFFEFFFFFC2F

/-- The order of the generator (R48, R49). -/
abbrev n : Nat := 0xFFFFFFFFFFFFFFFFFFFFFFFFFFFFFFFEBAAEDCE6AF48A03BBFD25E8CD0364141

/-- R48. -/
def Gx : Nat := 0x79BE667EF9DCBBAC55A06295CE870B07029BFCDB2DCE28D959F2815B16F81798

/-- R48. -/
def Gy : Nat := 0x483ADA7726A3C4655DA4FBFC0E1108A8FD17B448A68554199C47D08FFB10D4B8

/-- The b of y² = x³ + b (R48). -/
def curveB : Nat := 7

/-- LDC's constant with index k (R127); every index above 6 is ILLEGAL by decode. -/
def curveConst (k : Reg) : Nat :=
  match k.val with
  | 0 => 0
  | 1 => 1
  | 2 => p
  | 3 => n
  | 4 => Gx
  | 5 => Gy
  | _ => curveB

/-- The ID register (R41). -/
def idValue : Word := 0x54534307

/-- R34. -/
def bufCapacity : Nat := 128

/-- R35, `MSG_MAX` of R8. -/
def msgCapacity : Nat := 1024

/-- R36. -/
def dstCapacity : Nat := 255

/-- The window offsets of the byte regions (R72). -/
def bufBase : Nat := 0x100
def dstBase : Nat := 0x200
def regBase : Nat := 0x400
def msgBase : Nat := 0x800

end Sys2Proof.Machine
end

