-- ==== Sys2Proof/Machine/Field.lean ====
section
/-!
DEFINITION. Sys2Proof/Machine/Field.lean: exact modular arithmetic (R140) and the field GF(p) (R14).
-/

namespace Sys2Proof.Machine

/-! ## Modular arithmetic on unbounded naturals -/

/-- The square-and-multiply loop of R145, from bit i − 1 down to bit 0 of e. -/
def modPowLoop (b e m : Nat) : Nat → Nat → Nat
  | 0, r => r
  | i + 1, r =>
    let sqr := r * r % m
    modPowLoop b e m i (if e.testBit i then sqr * b % m else sqr)

/-- b^e mod m for e < 2^256 (R145). -/
def modPow (b e m : Nat) : Nat := modPowLoop b e m 256 (1 % m)

/-- The extended Euclidean algorithm (R143) on remainders r₀, r₁ with r₀ ≡ a·s₀ and r₁ ≡ a·s₁ (mod m). -/
def modInvLoop (m : Nat) : Nat → Nat → Nat → Nat → Nat → Nat
  | 0, _, s₀, _, _ => s₀
  | k + 1, r₀, s₀, r₁, s₁ =>
    if r₁ = 0 then s₀
    else modInvLoop m k r₁ s₁ (r₀ % r₁) ((s₀ + (m - r₀ / r₁ * s₁ % m)) % m)

/-- The inverse of a mod m, for gcd(a mod m, m) = 1: the v in [0, m) with a·v ≡ 1 (mod m) (R143). The remainders fall
below half in two steps, so 513 steps are enough for a 256-bit modulus. -/
def modInv (a m : Nat) : Nat := modInvLoop m 513 m 0 (a % m) (1 % m)

/-- inv_n(a), the inverse mod n of a value a ≢ 0 (R15). -/
def invN (a : Nat) : Nat := modInv a n

/-! ## GF(p) -/

/-- An element of GF(p), in [0, p); its `+`, `-` and `*` are taken mod p (R14). -/
abbrev Fp := Fin p

/-- The value of a register read as a coordinate: taken mod p (R33). -/
def toFp (v : Nat) : Fp := Fin.ofNat p v

def Fp.toVal (a : Fp) : Val := BitVec.ofNat 256 a.val

def sqr (a : Fp) : Fp := a * a

def cube (a : Fp) : Fp := a * a * a

def fpPow (a : Fp) (e : Nat) : Fp := toFp (modPow a.val e p)

/-- inv_p(a) = a^(p−2) mod p, which is 0 for a = 0 (R14). -/
def invP (a : Fp) : Fp := fpPow a (p - 2)

/-- sqrt_p(c) = c^((p+1)/4) mod p; a square root only when its square is c (R14). -/
def sqrtP (c : Fp) : Fp := fpPow c ((p + 1) / 4)

/-- is_square(c): c = 0 or c^((p−1)/2) = 1 (R14). -/
def isSquare (c : Fp) : Bool := c = 0 || fpPow c ((p - 1) / 2) = 1

/-- sgn0(v) = v mod 2 (R14); also the parity of a y-coordinate. -/
def sgn0 (v : Fp) : Nat := v.val % 2

end Sys2Proof.Machine
end

