-- ==== Sys2Proof/Machine/State.lean ====
section
/-!
DEFINITION. Sys2Proof/Machine/State.lean: the state of the block (10_state.md), the inputs that reach it, and its reset.
`Block` is the record of R56, with the three byte buffers held as one sparse memory keyed by window offset. `State` adds
the model's own fields: what the two other agents of R19 (the host and the entropy source) and the platform do next, and
what the host last got back.
-/

namespace Sys2Proof.Machine

/-- The reasons a step can stop with a fault: none. Every error of the block is a completion that goes on
(R280, R294), a bus error changes no state (R73, R291), and the entropy source never fails (R303). -/
inductive Fault
  deriving DecidableEq, Repr

/-- The reasons a step can be refused. -/
inductive Refusal
  /-- `exec` has no meaning for this instruction. Raised only by a refused arm of Machine/Dispatch.lean, and no arm is
  refused: every command has its meaning. Safe. -/
  | notModelled (mnemonic : String)
  deriving DecidableEq, Repr

/-- The error codes that `raise` names (R12, R281). -/
inductive ErrCode
  | illegal
  | domain
  | size
  | length
  | state
  deriving DecidableEq, Repr

/-- The bytes of BUF, DST and MSG, keyed by window offset (R72), strictly rising, with no entry for a byte that holds
0x00, the value of every byte after reset (R55). `Memory.wf` (Machine/Ops.lean) states the form. -/
abbrev Memory := List Host.Cell

/-- The state of the block: the record of R56. -/
structure Block where
  /-- x[0] to x[31] (R30). -/
  regs : Vector Val 32
  /-- BUF, DST and MSG (R34, R35, R36). -/
  mem : Memory
  /-- R37. -/
  buflen : BitVec 8
  /-- R38. -/
  msglen : BitVec 16
  /-- R39. -/
  dstlen : BitVec 8
  /-- CTRL.IE (R42). -/
  ie : Bool
  /-- STATUS.BUSY (R43). -/
  busy : Bool
  /-- STATUS.DONE (R43). -/
  done : Bool
  /-- STATUS.ERR (R43). -/
  err : Bool
  /-- STATUS.OVR (R43). -/
  ovr : Bool
  /-- STATUS.WBUSY (R43). -/
  wbusy : Bool
  /-- CMDLAST, the last word accepted; with `busy`, the command in flight (R44, R51). -/
  cmdlast : Word
  /-- ERRCODE.CODE (R46). -/
  errcode : BitVec 4
  /-- RESULT.RES (R47). -/
  res : Bool
  deriving DecidableEq, Repr

/-- The width of a host access that is not 32 bits (R73). -/
inductive OtherWidth
  | byte
  | half
  | double
  deriving DecidableEq, Repr

/-- The moves of the host agent (R91). A 32-bit access at an offset that is not a multiple of 4 is a `read` or a `write`
that gets a bus error; an access of another width, of either direction, is `other`. -/
inductive HostMove
  | read (o : Offset)
  | write (o : Offset) (w : Word)
  | other (width : OtherWidth) (o : Offset)
  | observeIrq
  deriving DecidableEq, Repr

/-- One place in the total order of host accesses and engine turns (R21, R86), or the platform's reset input (R310). -/
inductive Event
  | host (m : HostMove)
  | engine
  | hardReset
  deriving DecidableEq, Repr

/-- What the host gets from a move (the last column of R91). -/
inductive Reply
  | nothing
  | word (w : Word)
  | busError
  | irq (b : Bool)
  deriving DecidableEq, Repr

structure State extends Block where
  /-- The model's own: what happens next, first event first; when it is empty it is the engine's turn (log 1). -/
  script : List Event
  /-- The model's own: what the last move of the host got (log 1). -/
  reply : Reply
  /-- The model's own: the draws of the entropy source that are already waiting, next first (log 2). -/
  entropy : List Val
  /-- The model's own: how many draws were taken from `Config.draw` (log 2). -/
  drawn : Nat
  /-- The model's own: how many host reads of a data word were made during BUSY = 1 (log 3). -/
  busyReads : Nat
  deriving DecidableEq, Repr

/-- The writes of a successful outcome (R124): registers, a prefix of BUF (which also sets BUFLEN to its length: R190,
R210) and RESULT. -/
structure Effects where
  regs : List (Reg × Val) := []
  buf : Option (List Byte) := none
  res : Option Bool := none
  deriving DecidableEq, Repr

/-- An outcome of the engine (R124): `Ok` with its writes, or `Err` with its code. -/
abbrev EngineOutcome := Except ErrCode Effects

/-- The reset values of R55. -/
def Block.reset : Block where
  regs := Vector.replicate 32 0
  mem := []
  buflen := 0
  msglen := 0
  dstlen := 0
  ie := false
  busy := false
  done := false
  err := false
  ovr := false
  wbusy := false
  cmdlast := 0
  errcode := 0
  res := false

/-- Right after reset: the block as R55 and R310 say, no event ahead, nothing read yet and no draw waiting. The values of
the model's own fields are a DESIGN CHOICE (log 1, 2, 3). -/
def State.reset : State where
  toBlock := Block.reset
  script := []
  reply := .nothing
  entropy := []
  drawn := 0
  busyReads := 0

end Sys2Proof.Machine
end

