-- ==== Sys2Proof/Machine/Curve.lean ====
section
/-!
DEFINITION. Sys2Proof/Machine/Curve.lean: Jacobian triples, the formulas of 42_point_arithmetic.md, scalar multiplication
(R180) and the lift of an x-coordinate (R190).
The group operations of E (R16) on points with affine coordinates are computed with the formulas of R161 and R163 and then
normalised: R162 and R266 give the affine value of those formulas as the group operation (log 6).
-/

namespace Sys2Proof.Machine

/-- A Jacobian point (X, Y, Z), its coordinates in GF(p) (R33). -/
structure Triple where
  X : Fp
  Y : Fp
  Z : Fp
  deriving DecidableEq, Repr

/-- The triple the engine writes for ∞ (R16, R33). -/
def INF : Triple := ⟨1, 1, 0⟩

/-- The generator (R48). -/
def G : Triple := ⟨toFp Gx, toFp Gy, 1⟩

/-- canon(T) of R160. -/
def canon (T : Triple) : Triple := if T.Z = 0 then INF else T

/-- PDBL_f of R163. -/
def pdblF (T : Triple) : Triple :=
  if T.Z = 0 then INF
  else
    let S := 4 * T.X * sqr T.Y
    let M := 3 * sqr T.X
    let X3 := sqr M - 2 * S
    let Y3 := M * (S - X3) - 8 * sqr (sqr T.Y)
    let Z3 := 2 * T.Y * T.Z
    if Z3 = 0 then INF else ⟨X3, Y3, Z3⟩

/-- PADD_f, the pseudocode of R161. -/
def paddF (T₁ T₂ : Triple) : Triple :=
  if T₁.Z = 0 then canon T₂
  else if T₂.Z = 0 then canon T₁
  else
    let U1 := T₁.X * sqr T₂.Z
    let U2 := T₂.X * sqr T₁.Z
    let S1 := T₁.Y * cube T₂.Z
    let S2 := T₂.Y * cube T₁.Z
    if U1 = U2 then (if S1 = S2 then pdblF T₁ else INF)
    else
      let H := U2 - U1
      let R := S2 - S1
      let X3 := sqr R - cube H - 2 * U1 * sqr H
      let Y3 := R * (U1 * sqr H - X3) - S1 * cube H
      let Z3 := H * T₁.Z * T₂.Z
      ⟨X3, Y3, Z3⟩

/-- PNEG_f of R165; −Y is (p − Y) mod p, so 0 stays 0. -/
def pnegF (T : Triple) : Triple := if T.Z = 0 then INF else ⟨T.X, -T.Y, T.Z⟩

/-- PSUB of R166. -/
def psubF (T₁ T₂ : Triple) : Triple := paddF T₁ (pnegF T₂)

/-- affine(T) of R16; none for ∞. -/
def affine (T : Triple) : Option (Fp × Fp) :=
  if T.Z = 0 then none else some (T.X * sqr (invP T.Z), T.Y * cube (invP T.Z))

/-- The normalised triple of an affine point or ∞: (x, y, 1) or INF (R33). -/
def ofAffine : Option (Fp × Fp) → Triple
  | none => INF
  | some (x, y) => ⟨x, y, 1⟩

def normal (T : Triple) : Triple := ofAffine (affine T)

/-- The on-curve test of R180 for a triple with Z ≠ 0: Y² = X³ + 7·Z⁶. -/
def onCurve (T : Triple) : Bool := sqr T.Y = cube T.X + toFp curveB * sqr (cube T.Z)

/-- Double-and-add over the bits of k from bit i − 1 down. -/
def mulLoop (k : Nat) (T : Triple) : Nat → Triple → Triple
  | 0, acc => acc
  | i + 1, acc =>
    let d := pdblF acc
    mulLoop k T i (if k.testBit i then paddF d T else d)

/-- k·P in E for k < 2^256, as some Jacobian triple (R180: the algorithm is not visible once the result is normalised). -/
def mulPoint (k : Nat) (T : Triple) : Triple := mulLoop k T 256 INF

/-- k·G, normalised. -/
def mulG (k : Nat) : Option (Fp × Fp) := affine (mulPoint k G)

/-- smul(T, k) of R180. -/
def smul (T : Triple) (k : Nat) : Except ErrCode Triple :=
  if T.Z ≠ 0 ∧ onCurve T = false then .error .domain
  else .ok (normal (mulPoint (k % n) T))

/-- PEQ's comparison (R198). -/
def peqF (T₁ T₂ : Triple) : Bool :=
  if T₁.Z = 0 ∧ T₂.Z = 0 then true
  else if T₁.Z = 0 ∨ T₂.Z = 0 then false
  else T₁.X * sqr T₂.Z = T₂.X * sqr T₁.Z && T₁.Y * cube T₂.Z = T₂.Y * cube T₁.Z

/-- lift(xv, par) of R190; none where it raises DOMAIN. -/
def lift (xv par : Nat) : Option (Fp × Fp) :=
  if p ≤ xv then none
  else
    let c := cube (toFp xv) + toFp curveB
    let y := sqrtP c
    if sqr y ≠ c then none
    else some (toFp xv, if sgn0 y ≠ par then -y else y)

/-- lift_x(xv) of R212. -/
def liftX (xv : Nat) : Option (Fp × Fp) := lift xv 0

/-- has_even_y(P) of R16. -/
def evenY (P : Fp × Fp) : Bool := sgn0 P.2 = 0

end Sys2Proof.Machine
end

