-- ==== Sys2Proof/Config.lean ====
section
/-!
DEFINITION. Sys2Proof/Config.lean: what an implementation or its surroundings fix, and the free values.
The two `opaque` constants have no body: nothing in Lean can evaluate them or prove a value of them, so a theorem that
holds of the model holds whatever they are (assumption log 2 and 3).
The other parameters of R8 do not occur in any rule's function: `BASE` (every rule uses window offsets), `LAT` (no
time; the order of engine turns and host moves is data in `State.script`, log 1) and `BUS_ERROR` (the platform's form of
the reply that `Reply.busError` stands for).
-/

namespace Sys2Proof.Config

/-- The entropy source's draws beyond those already waiting in `State.entropy`: draw number k is any 32-byte value,
under no law (R52, R125; 92 D40). A draw is kept as the 256-bit value `int` of its 32 bytes. -/
opaque draw : Nat → Val

/-- What the k-th host read of a data word during BUSY = 1 returns: any 32-bit value, a separate free value for each
such read (R81; 92 D12). -/
opaque busyRead : Nat → Word

/-- `ECDSA_LOW_S` of R8, decided `false` (92 D34). The meanings pass it to `ecdsaCore`, which takes either value. -/
def ecdsaLowS : Bool := false

end Sys2Proof.Config
end

