-- ==== Sys2Proof/Machine/Bytes.lean ====
section
/-!
DEFINITION. Sys2Proof/Machine/Bytes.lean: byte strings and byte order (R11, R76, R77).
-/

namespace Sys2Proof.Machine

/-- I2OSP(v, L): the L-byte big-endian encoding of v < 256^L (R11). -/
def i2osp (v L : Nat) : List Byte :=
  (List.range L).map fun j => BitVec.ofNat 8 (v >>> (8 * (L - 1 - j)))

/-- be32(v): the 32-byte big-endian encoding (R11). -/
def be32 (v : Nat) : List Byte := i2osp v 32

/-- OS2IP: the big-endian value of a byte string, 0 for the empty one (R11). -/
def os2ip (s : List Byte) : Nat := s.foldl (fun acc b => acc * 256 + b.toNat) 0

/-- XOR of two byte strings of one length (R222, R262). -/
def xorBytes (a b : List Byte) : List Byte := List.zipWith (· ^^^ ·) a b

/-- Byte k of a host word: bits [8k+7 : 8k] (R74, R76). -/
def lane (w : Word) (k : Nat) : Byte := w.extractLsb' (8 * k) 8

/-- The host word of four bytes, the one at the lowest offset in bits [7:0] (R74, R76). -/
def packLanes (b0 b1 b2 b3 : Byte) : Word := b3 ++ b2 ++ b1 ++ b0

/-- Byte j of be32(v): bits [255 − 8j : 248 − 8j] (R77). -/
def valByte (v : Val) (j : Nat) : Byte := v.extractLsb' (8 * (31 - j)) 8

/-- v with byte j of be32(v) replaced (R77). -/
def setValByte (v : Val) (j : Nat) (b : Byte) : Val :=
  (v &&& ~~~((BitVec.allOnes 8).setWidth 256 <<< (8 * (31 - j)))) ||| (b.setWidth 256 <<< (8 * (31 - j)))

end Sys2Proof.Machine
end

