-- ==== Sys2Proof/Machine/Flags.lean ====
section
/-!
DEFINITION. Sys2Proof/Machine/Flags.lean: every computation on STATUS, CTRL, ERRCODE, RESULT and `irq`. RESULT is the
block's only condition flag (R47) and BUFLEN the only length a command writes (R37).
-/

namespace Sys2Proof.Machine

/-- The number of an error code in ERRCODE.CODE (R281); 0 is NONE. -/
def ErrCode.code : ErrCode → BitVec 4
  | .illegal => 1
  | .domain => 2
  | .size => 3
  | .length => 4
  | .state => 5

/-- The interrupt output, a function of the state (R53, R292). -/
def Block.irq (b : Block) : Bool := b.ie && b.done

/-- The word CTRL reads as: bit 0 is IE, SRST reads 0 (R42). -/
def Block.ctrlWord (b : Block) : Word := (0 : BitVec 31) ++ BitVec.ofBool b.ie

/-- The word STATUS reads as (R43). -/
def Block.statusWord (b : Block) : Word :=
  (0 : BitVec 27) ++ BitVec.ofBool b.wbusy ++ BitVec.ofBool b.ovr ++ BitVec.ofBool b.err ++
    BitVec.ofBool b.done ++ BitVec.ofBool b.busy

/-- The word ERRCODE reads as (R46). -/
def Block.errcodeWord (b : Block) : Word := b.errcode.setWidth 32

/-- The word RESULT reads as (R47). -/
def Block.resultWord (b : Block) : Word := (0 : BitVec 31) ++ BitVec.ofBool b.res

/-- A write of w to STATUS: DONE, ERR, OVR and WBUSY are cleared where w has a 1, BUSY ignores it (R43). -/
def Block.clearStatus (b : Block) (w : Word) : Block :=
  { b with
    done := b.done && !w.getLsbD 1
    err := b.err && !w.getLsbD 2
    ovr := b.ovr && !w.getLsbD 3
    wbusy := b.wbusy && !w.getLsbD 4 }

/-- The flags of a completion with code 0 (R124). -/
def Block.flagOk (b : Block) : Block :=
  { b with errcode := 0, err := false, busy := false, done := true }

/-- The flags of a completion with an error (R124, R288). -/
def Block.flagErr (b : Block) (c : ErrCode) : Block :=
  { b with errcode := c.code, err := true, busy := false, done := true }

/-- `if res? = some b then RESULT.RES <- b` (R124, R47). -/
def Block.setRes (b : Block) (r : Option Bool) : Block :=
  match r with
  | none => b
  | some v => { b with res := v }

end Sys2Proof.Machine
end

