-- ==== Sys2Proof/Machine/Ops.lean ====
section
/-!
DEFINITION. Sys2Proof/Machine/Ops.lean: the named operations over the buffers' memory and the registers, the life cycle
of a command (acceptance, completion with or without an error, reset), and the entropy source's draws.
An error completion (`Block.complete` of an `.error`) is this block's one form of taking an exception: R294 and R295 give
it no vector, no saved state and no return.
-/

namespace Sys2Proof.Machine

/-! ## The buffers' memory -/

/-- The byte at window offset a; an unlisted byte holds 0x00, as after reset (R55). -/
def Memory.read : Memory → Nat → Byte
  | [], _ => 0#8
  | c :: m, a => if a = c.1 then c.2 else Memory.read m a

/-- Set the byte at window offset a and keep the canonical form. -/
def Memory.write : Memory → Nat → Byte → Memory
  | [], a, v => if v = 0#8 then [] else [(a, v)]
  | c :: m, a, v =>
    if a < c.1 then (if v = 0#8 then c :: m else (a, v) :: c :: m)
    else if a = c.1 then (if v = 0#8 then m else (a, v) :: m)
    else c :: Memory.write m a v

/-- Set the bytes from window offset a on. -/
def Memory.writeBytes : Memory → Nat → List Byte → Memory
  | m, _, [] => m
  | m, a, v :: vs => Memory.writeBytes (m.write a v) (a + 1) vs

/-- The len bytes from window offset a on. -/
def Memory.readBytes (m : Memory) (a len : Nat) : List Byte :=
  (List.range len).map fun k => m.read (a + k)

/-- The window offsets that hold a byte of BUF, DST or MSG (R72); 0x2FF is reserved. -/
def isBufferByte (a : Nat) : Bool :=
  (bufBase ≤ a && a < bufBase + bufCapacity) || (dstBase ≤ a && a < dstBase + dstCapacity) ||
    (msgBase ≤ a && a < msgBase + msgCapacity)

/-- The canonical form: rising offsets of buffer bytes, none listed with the value an unlisted byte has. -/
abbrev Memory.wf (m : Memory) : Prop :=
  m.Pairwise (fun c d => c.1 < d.1) ∧ ∀ c ∈ m, c.2 ≠ 0#8 ∧ isBufferByte c.1 = true

/-! ## Registers -/

/-- x[i] (R12, R30). -/
def Block.reg (b : Block) (i : Reg) : Val := b.regs[i]

/-- x[i] <- v (R12): every register is writable, none is hardwired (R30). -/
def Block.setReg (b : Block) (i : Reg) (v : Val) : Block := { b with regs := b.regs.set i v }

/-- Several register writes of one completion. -/
def Block.setRegs : Block → List (Reg × Val) → Block
  | b, [] => b
  | b, w :: ws => Block.setRegs (b.setReg w.1 w.2) ws

/-- BUF[0..L) <- bytes and BUFLEN <- L (R190, R210); BUF[L..127] keeps its values. -/
def Block.putBuf (b : Block) (bytes : Option (List Byte)) : Block :=
  match bytes with
  | none => b
  | some s => { b with mem := b.mem.writeBytes bufBase s, buflen := BitVec.ofNat 8 s.length }

/-! ## The life cycle of a command -/

/-- Acceptance of the word w (R122). -/
def Block.accept (b : Block) (w : Word) : Block :=
  { b with cmdlast := w, busy := true, done := false, err := false, errcode := 0 }

/-- Applying an outcome (R124). -/
def Block.complete (b : Block) (o : EngineOutcome) : Block :=
  match o with
  | .ok e => (((b.setRegs e.regs).putBuf e.buf).setRes e.res).flagOk
  | .error c => b.flagErr c

def State.complete (s : State) (o : EngineOutcome) : State := { s with toBlock := s.toBlock.complete o }

/-- The completion of a command whose outcome is o: how every meaning that draws nothing ends. -/
def State.finish (s : State) (o : EngineOutcome) : Host.Outcome State Fault Refusal := .next (s.complete o)

/-- Hardware and soft reset: every piece of the block's state takes its value of R55, and a command in flight is
abandoned (R310, R311, R312). The agents' own fields go on: no draw or free value is given twice. -/
def State.resetBlock (s : State) : State := { s with toBlock := Block.reset, reply := .nothing }

/-! ## Draws (R125) -/

/-- Take draws in order until one is accepted: first those that wait, then one of `Config.draw`. The result is the accepted
draw, if there is one, with the draws still waiting and the number taken from `Config.draw`. -/
def drawUntil (accept : Nat → Bool) : List Val → Nat → Option Nat × List Val × Nat
  | [], k => (if accept (Config.draw k).toNat then some (Config.draw k).toNat else none, [], k + 1)
  | d :: ds, k => if accept d.toNat then (some d.toNat, ds, k) else drawUntil accept ds k

/-- The completion of a command with a rejection loop (R125, R214, R217): `f` of the first accepted draw. When no draw
waiting is accepted and the next one of the source is not either, BUSY stays 1 and the next engine turn goes on drawing;
a sequence with no accepted draw is the hang of R125 (log 2). -/
def State.finishDrawn (s : State) (accept : Nat → Bool) (f : Nat → EngineOutcome) :
    Host.Outcome State Fault Refusal :=
  .next
    (match drawUntil accept s.entropy s.drawn with
    | (some v, ds, k) => { s with entropy := ds, drawn := k }.complete (f v)
    | (none, ds, k) => { s with entropy := ds, drawn := k })

end Sys2Proof.Machine
end

