-- ==== Sys2Proof/Machine/Operands.lean ====
section
/-!
DEFINITION. Sys2Proof/Machine/Operands.lean: how a command reads its operands and names its destinations (R33, R101, R210).
A base is at most 29 (28 for a quad) by decode; `rd + 1` on a larger one wraps in the 32 registers and is never reached.
-/

namespace Sys2Proof.Machine

/-- A register operand as an unsigned integer (R31). -/
def Block.val (b : Block) (i : Reg) : Nat := (b.reg i).toNat

/-- A triple operand: x[v], x[v+1], x[v+2], each coordinate taken mod p (R33). -/
def Block.triple (b : Block) (v : Reg) : Triple :=
  ⟨toFp (b.val v), toFp (b.val (v + 1)), toFp (b.val (v + 2))⟩

/-- be32(x[i]): a root, an aux_rand or a hash as 32 bytes (R210). -/
def Block.bytes32 (b : Block) (i : Reg) : List Byte := be32 (b.val i)

/-- BUF[0..BUFLEN) (R190, R210). -/
def Block.bufBytes (b : Block) : List Byte := b.mem.readBytes bufBase b.buflen.toNat

/-- MSG[0..MSGLEN) (R210, R260). -/
def Block.msgBytes (b : Block) : List Byte := b.mem.readBytes msgBase b.msglen.toNat

/-- DST[0..DSTLEN) (R260). -/
def Block.dstBytes (b : Block) : List Byte := b.mem.readBytes dstBase b.dstlen.toNat

/-- BUFLEN exceeds the capacity of BUF (R37, R283). -/
def Block.bufTooLong (b : Block) : Bool := bufCapacity < b.buflen.toNat

/-- MSGLEN exceeds the capacity of MSG (R38, R283). -/
def Block.msgTooLong (b : Block) : Bool := msgCapacity < b.msglen.toNat

/-- The write of a number < 2^256 to a register. -/
def wrReg (rd : Reg) (v : Nat) : List (Reg × Val) := [(rd, BitVec.ofNat 256 v)]

/-- The write of a triple to x[rd], x[rd+1], x[rd+2] (R33). -/
def wrTriple (rd : Reg) (T : Triple) : List (Reg × Val) :=
  [(rd, T.X.toVal), (rd + 1, T.Y.toVal), (rd + 2, T.Z.toVal)]

/-- The outcome that writes one register and nothing else. -/
def okReg (rd : Reg) (v : Nat) : EngineOutcome := .ok { regs := wrReg rd v }

/-- The outcome that writes a triple and nothing else. -/
def okTriple (rd : Reg) (T : Triple) : EngineOutcome := .ok { regs := wrTriple rd T }

/-- The outcome of a predicate command that writes RESULT and nothing else (R47). -/
def okRes (r : Bool) : EngineOutcome := .ok { res := some r }

/-- The outcome that writes BUF[0..L) and BUFLEN and nothing else. -/
def okBuf (s : List Byte) : EngineOutcome := .ok { buf := some s }

end Sys2Proof.Machine
end

