-- ==== Sys2Proof/Machine/EngineControl.lean ====
section
/-!
DEFINITION. Sys2Proof/Machine/EngineControl.lean: NOP, LDC and the completion of an illegal word (40_engine_control.md).
-/

namespace Sys2Proof.Machine

/-- NOP (R126). -/
def execNop (s : State) : Host.Outcome State Fault Refusal := s.finish (.ok {})

/-- LDC rd, #k (R127). -/
def execLdc (rd k : Reg) (s : State) : Host.Outcome State Fault Refusal := s.finish (okReg rd (curveConst k))

/-- A word that does not decode completes with ILLEGAL (R106, R128); CMDLAST keeps it. -/
def execIllegal (s : State) : Host.Outcome State Fault Refusal := s.finish (.error .illegal)

end Sys2Proof.Machine
end

