-- ==== Sys2Proof/Machine/Hash.lean ====
section
/-!
DEFINITION. Sys2Proof/Machine/Hash.lean: SHA-256 and the BIP340 tagged hash (R17, R211).
R17 names SHA-256 "as FIPS 180-4 defines it" and does not transcribe it: the constants and the round function below are
PRESUMED, taken from that standard (log 7).
-/

namespace Sys2Proof.Machine

/-- The eight working variables a to h, and the eight words of a hash value (FIPS 180-4 §6.2). -/
structure Sha where
  a : Word
  b : Word
  c : Word
  d : Word
  e : Word
  f : Word
  g : Word
  h : Word
  deriving DecidableEq, Repr

/-- Eight 32-bit words in one row, the first in the most significant bits. -/
def shaRow (row : Nat) : List Word := (List.range 8).map fun j => BitVec.ofNat 32 (row >>> (32 * (7 - j)))

/-- The round constants: the first 32 bits of the fractional parts of the cube roots of the first 64 primes (FIPS 180-4
§4.2.2), eight to a row. `test_sha_constants_are_cube_roots` checks them against that definition. -/
def shaK : List Word :=
  List.flatMap shaRow [
    0x428A2F9871374491B5C0FBCFE9B5DBA53956C25B59F111F1923F82A4AB1C5ED5,
    0xD807AA9812835B01243185BE550C7DC372BE5D7480DEB1FE9BDC06A7C19BF174,
    0xE49B69C1EFBE47860FC19DC6240CA1CC2DE92C6F4A7484AA5CB0A9DC76F988DA,
    0x983E5152A831C66DB00327C8BF597FC7C6E00BF3D5A7914706CA635114292967,
    0x27B70A852E1B21384D2C6DFC53380D13650A7354766A0ABB81C2C92E92722C85,
    0xA2BFE8A1A81A664BC24B8B70C76C51A3D192E819D6990624F40E3585106AA070,
    0x19A4C1161E376C082748774C34B0BCB5391C0CB34ED8AA4A5B9CCA4F682E6FF3,
    0x748F82EE78A5636F84C878148CC7020890BEFFFAA4506CEBBEF9A3F7C67178F2 ]

/-- The initial hash value: the same of the square roots of the first eight primes (FIPS 180-4 §5.3.3). -/
def shaInit : Sha :=
  ⟨0x6a09e667, 0xbb67ae85, 0x3c6ef372, 0xa54ff53a, 0x510e527f, 0x9b05688c, 0x1f83d9ab, 0x5be0cd19⟩

def shaCh (x y z : Word) : Word := (x &&& y) ^^^ (~~~x &&& z)
def shaMaj (x y z : Word) : Word := (x &&& y) ^^^ (x &&& z) ^^^ (y &&& z)
def shaSum0 (x : Word) : Word := x.rotateRight 2 ^^^ x.rotateRight 13 ^^^ x.rotateRight 22
def shaSum1 (x : Word) : Word := x.rotateRight 6 ^^^ x.rotateRight 11 ^^^ x.rotateRight 25
def shaSig0 (x : Word) : Word := x.rotateRight 7 ^^^ x.rotateRight 18 ^^^ (x >>> 3)
def shaSig1 (x : Word) : Word := x.rotateRight 17 ^^^ x.rotateRight 19 ^^^ (x >>> 10)

/-- One round with constant k and schedule word w (FIPS 180-4 §6.2.2 step 3). -/
def shaRound (k w : Word) (v : Sha) : Sha :=
  let t1 := v.h + shaSum1 v.e + shaCh v.e v.f v.g + k + w
  let t2 := shaSum0 v.a + shaMaj v.a v.b v.c
  ⟨t1 + t2, v.a, v.b, v.c, v.d + t1, v.e, v.f, v.g⟩

/-- The schedule word 16 places after the head of a window of 16 (FIPS 180-4 §6.2.2 step 1). -/
def shaNextWord (ws : List Word) : Word :=
  shaSig1 (ws.getD 14 0) + ws.getD 9 0 + shaSig0 (ws.getD 1 0) + ws.getD 0 0

/-- The rounds, over the constants left and the window of the next 16 schedule words. -/
def shaRounds : List Word → List Word → Sha → Sha
  | [], _, v => v
  | k :: ks, ws, v => shaRounds ks (ws.drop 1 ++ [shaNextWord ws]) (shaRound k (ws.getD 0 0) v)

/-- The sixteen big-endian words of a 64-byte block. -/
def shaWords (block : List Byte) : List Word :=
  (List.range 16).map fun i => BitVec.ofNat 32 (os2ip ((block.drop (4 * i)).take 4))

/-- The hash value after one block (FIPS 180-4 §6.2.2). -/
def shaBlock (h : Sha) (block : List Byte) : Sha :=
  let v := shaRounds shaK (shaWords block) h
  ⟨h.a + v.a, h.b + v.b, h.c + v.c, h.d + v.d, h.e + v.e, h.f + v.f, h.g + v.g, h.h + v.h⟩

/-- Padding: 0x80, zero bytes up to 56 mod 64, and the 64-bit length in bits (FIPS 180-4 §5.1.1). -/
def shaPad (s : List Byte) : List Byte :=
  s ++ [0x80] ++ List.replicate ((119 - s.length % 64) % 64) 0 ++ i2osp (8 * s.length) 8

/-- The hash value after the first k blocks of s. -/
def shaBlocks : Nat → List Byte → Sha → Sha
  | 0, _, h => h
  | k + 1, s, h => shaBlocks k (s.drop 64) (shaBlock h (s.take 64))

def wordBytes (w : Word) : List Byte := i2osp w.toNat 4

/-- SHA256(s), 32 bytes (R17, R211). -/
def sha256 (s : List Byte) : List Byte :=
  let h := shaBlocks ((shaPad s).length / 64) (shaPad s) shaInit
  wordBytes h.a ++ wordBytes h.b ++ wordBytes h.c ++ wordBytes h.d ++
    wordBytes h.e ++ wordBytes h.f ++ wordBytes h.g ++ wordBytes h.h

/-- H_tag(s) = SHA256(SHA256(tag) ‖ SHA256(tag) ‖ s) (R17, R211). -/
def hashTag (tag s : List Byte) : List Byte := sha256 (sha256 tag ++ sha256 tag ++ s)

/-! The tags of R211, as ASCII bytes. -/

/-- "BIP0340/". -/
def tagBip340 : List Byte := [0x42, 0x49, 0x50, 0x30, 0x33, 0x34, 0x30, 0x2F]

/-- "BIP0340/aux". -/
def tagAux : List Byte := tagBip340 ++ [0x61, 0x75, 0x78]

/-- "BIP0340/nonce". -/
def tagNonce : List Byte := tagBip340 ++ [0x6E, 0x6F, 0x6E, 0x63, 0x65]

/-- "BIP0340/challenge". -/
def tagChallenge : List Byte := tagBip340 ++ [0x63, 0x68, 0x61, 0x6C, 0x6C, 0x65, 0x6E, 0x67, 0x65]

/-- "TapTweak". -/
def tagTapTweak : List Byte := [0x54, 0x61, 0x70, 0x54, 0x77, 0x65, 0x61, 0x6B]

end Sys2Proof.Machine
end

