-- ==== Sys2Proof/Machine/HashToCurve.lean ====
section
/-!
DEFINITION. Sys2Proof/Machine/HashToCurve.lean: H2C (46_hash_to_curve.md).
-/

namespace Sys2Proof.Machine

/-- DST_prime of R262. -/
def dstPrime (dst : List Byte) : List Byte := dst ++ i2osp dst.length 1

/-- b_0 of R262, with len_in_bytes = 96. -/
def xmdB0 (msg dst : List Byte) : List Byte :=
  sha256 (List.replicate 64 0 ++ msg ++ i2osp 96 2 ++ i2osp 0 1 ++ dstPrime dst)

/-- b_1 of R262. -/
def xmdB1 (msg dst : List Byte) : List Byte := sha256 (xmdB0 msg dst ++ i2osp 1 1 ++ dstPrime dst)

/-- b_i of R262 for i ≥ 2, from the block before it. -/
def xmdNext (msg dst : List Byte) (i : Nat) (prev : List Byte) : List Byte :=
  sha256 (xorBytes (xmdB0 msg dst) prev ++ i2osp i 1 ++ dstPrime dst)

/-- expand_message_xmd(msg, dst, 96) of R262: three blocks of 32 bytes. -/
def expandMessage (msg dst : List Byte) : List Byte :=
  let b1 := xmdB1 msg dst
  let b2 := xmdNext msg dst 2 b1
  let b3 := xmdNext msg dst 3 b2
  b1 ++ b2 ++ b3

/-- A′, B′ and Z of R264. -/
def swuA : Fp := toFp 0x3F8731ABDD661ADCA08A5558F0F5D272E953D363CB6F0E5D405447C01A444533
def swuB : Fp := toFp 1771
def swuZ : Fp := toFp (p - 11)

/-- x³ + A′·x + B′ (R264). -/
def swuG (x : Fp) : Fp := cube x + swuA * x + swuB

/-- x1 of R264. -/
def swuX1 (u : Fp) : Fp :=
  let tv1 := invP (sqr swuZ * sqr (sqr u) + swuZ * sqr u)
  if tv1 = 0 then swuB * invP (swuZ * swuA) else -swuB * invP swuA * (1 + tv1)

/-- sswu(u) of R264: a point of E′. -/
def sswu (u : Fp) : Fp × Fp :=
  let x1 := swuX1 u
  let x2 := swuZ * sqr u * x1
  let xy := if isSquare (swuG x1) then (x1, sqrtP (swuG x1)) else (x2, sqrtP (swuG x2))
  (xy.1, if sgn0 u ≠ sgn0 xy.2 then -xy.2 else xy.2)

/-- x_num of R265. -/
def isoXNum (x : Fp) : Fp :=
  toFp 0x8E38E38E38E38E38E38E38E38E38E38E38E38E38E38E38E38E38E38DAAAAA88C * cube x +
    toFp 0x534C328D23F234E6E2A413DECA25CAECE4506144037C40314ECBD0B53D9DD262 * sqr x +
    toFp 0x07D3D4C80BC321D5B9F315CEA7FD44C5D595D2FC0BF63B92DFFF1044F17C6581 * x +
    toFp 0x8E38E38E38E38E38E38E38E38E38E38E38E38E38E38E38E38E38E38DAAAAA8C7

/-- x_den of R265. -/
def isoXDen (x : Fp) : Fp :=
  sqr x + toFp 0xEDADC6F64383DC1DF7C4B2D51B54225406D36B641F5E41BBC52A56612A8C6D14 * x +
    toFp 0xD35771193D94918A9CA34CCBB7B640DD86CD409542F8487D9FE6B745781EB49B

/-- y_num of R265. -/
def isoYNum (x : Fp) : Fp :=
  toFp 0x2F684BDA12F684BDA12F684BDA12F684BDA12F684BDA12F684BDA12F38E38D84 * cube x +
    toFp 0x29A6194691F91A73715209EF6512E576722830A201BE2018A765E85A9ECEE931 * sqr x +
    toFp 0xC75E0C32D5CB7C0FA9D0A54B12A0A6D5647AB046D686DA6FDFFC90FC201D71A3 * x +
    toFp 0x4BDA12F684BDA12F684BDA12F684BDA12F684BDA12F684BDA12F684B8E38E23C

/-- y_den of R265. -/
def isoYDen (x : Fp) : Fp :=
  cube x + toFp 0x6484AA716545CA2CF3A70C3FA8FE337E0A3D21162F0D6299A7BF8192BFD2A76F * sqr x +
    toFp 0x7A06534BB8BDB49FD5E9E6632722C2989467C1BFC8E8D978DFB425D2685C2573 * x +
    toFp 0xFFFFFFFFFFFFFFFFFFFFFFFFFFFFFFFFFFFFFFFFFFFFFFFFFFFFFFFEFFFFF93B

/-- iso_map(x′, y′) of R265: E′ → E, none for ∞. -/
def isoMap (P : Fp × Fp) : Option (Fp × Fp) :=
  if isoXDen P.1 = 0 ∨ isoYDen P.1 = 0 then none
  else some (isoXNum P.1 * invP (isoXDen P.1), P.2 * isoYNum P.1 * invP (isoYDen P.1))

/-- u_i of R263: bytes 48·i to 48·i + 47 of the uniform string, mod p. -/
def fieldElement (uniform : List Byte) (i : Nat) : Fp := toFp (os2ip ((uniform.drop (48 * i)).take 48))

/-- hash_to_curve of R261, normalised. -/
def hashToCurve (msg dst : List Byte) : Triple :=
  let uniform := expandMessage msg dst
  let Q0 := ofAffine (isoMap (sswu (fieldElement uniform 0)))
  let Q1 := ofAffine (isoMap (sswu (fieldElement uniform 1)))
  normal (paddF Q0 Q1)

/-- R261: SIZE, then LENGTH. -/
def h2cOutcome (rd : Reg) (b : Block) : EngineOutcome :=
  if b.msgTooLong then .error .size
  else if b.dstlen = 0 then .error .length
  else okTriple rd (hashToCurve b.msgBytes b.dstBytes)

/-- H2C rd (R261). -/
def execH2c (rd : Reg) (s : State) : Host.Outcome State Fault Refusal :=
  s.finish (h2cOutcome rd s.toBlock)

end Sys2Proof.Machine
end

