-- ==== Sys2Proof/Machine/ModularArith.lean ====
section
/-!
DEFINITION. Sys2Proof/Machine/ModularArith.lean: MODMUL, MODINV, MODEXP and their constant-time forms
(41_modular_arithmetic.md). A .S form has the outcome of its plain form (R149); its latency property (R331) is not modelled.
-/

namespace Sys2Proof.Machine

/-- R141, on the values of the operands. -/
def modmulOutcome (rd : Reg) (a b m : Nat) : EngineOutcome :=
  if m = 0 then .error .domain else okReg rd (a * b % m)

/-- R143, on the values of the operands; gcd(0, m) = m. -/
def modinvOutcome (rd : Reg) (a m : Nat) : EngineOutcome :=
  if m = 0 then .error .domain
  else if Nat.gcd (a % m) m ≠ 1 then .error .domain
  else okReg rd (modInv a m)

/-- R145, on the values of the operands. -/
def modexpOutcome (rd : Reg) (b e m : Nat) : EngineOutcome :=
  if m = 0 then .error .domain else okReg rd (modPow b e m)

/-- MODMUL rd, rs1, rs2, rs3 (R141). -/
def execModmul (rd rs1 rs2 rs3 : Reg) (s : State) : Host.Outcome State Fault Refusal :=
  s.finish (modmulOutcome rd (s.val rs1) (s.val rs2) (s.val rs3))

/-- MODMUL.S rd, rs1, rs2, rs3 (R142). -/
def execModmulS (rd rs1 rs2 rs3 : Reg) (s : State) : Host.Outcome State Fault Refusal :=
  s.finish (modmulOutcome rd (s.val rs1) (s.val rs2) (s.val rs3))

/-- MODINV rd, rs1, rs3 (R143). -/
def execModinv (rd rs1 rs3 : Reg) (s : State) : Host.Outcome State Fault Refusal :=
  s.finish (modinvOutcome rd (s.val rs1) (s.val rs3))

/-- MODINV.S rd, rs1, rs3 (R144). -/
def execModinvS (rd rs1 rs3 : Reg) (s : State) : Host.Outcome State Fault Refusal :=
  s.finish (modinvOutcome rd (s.val rs1) (s.val rs3))

/-- MODEXP rd, rs1, rs2, rs3 (R145): base rs1, exponent rs2, modulus rs3. -/
def execModexp (rd rs1 rs2 rs3 : Reg) (s : State) : Host.Outcome State Fault Refusal :=
  s.finish (modexpOutcome rd (s.val rs1) (s.val rs2) (s.val rs3))

/-- MODEXP.S rd, rs1, rs2, rs3 (R146). -/
def execModexpS (rd rs1 rs2 rs3 : Reg) (s : State) : Host.Outcome State Fault Refusal :=
  s.finish (modexpOutcome rd (s.val rs1) (s.val rs2) (s.val rs3))

end Sys2Proof.Machine
end

