-- ==== Sys2Proof/Machine/PointArith.lean ====
section
/-!
DEFINITION. Sys2Proof/Machine/PointArith.lean: PADD, PDBL, PNEG, PSUB, PAFF (42_point_arithmetic.md). No command here
checks that a point is on the curve (R160).
-/

namespace Sys2Proof.Machine

/-- PADD rd, rs1, rs2 (R161). -/
def execPadd (rd rs1 rs2 : Reg) (s : State) : Host.Outcome State Fault Refusal :=
  s.finish (okTriple rd (paddF (s.triple rs1) (s.triple rs2)))

/-- PDBL rd, rs1 (R163). -/
def execPdbl (rd rs1 : Reg) (s : State) : Host.Outcome State Fault Refusal :=
  s.finish (okTriple rd (pdblF (s.triple rs1)))

/-- PNEG rd, rs1 (R165). -/
def execPneg (rd rs1 : Reg) (s : State) : Host.Outcome State Fault Refusal :=
  s.finish (okTriple rd (pnegF (s.triple rs1)))

/-- PSUB rd, rs1, rs2 (R166). -/
def execPsub (rd rs1 rs2 : Reg) (s : State) : Host.Outcome State Fault Refusal :=
  s.finish (okTriple rd (psubF (s.triple rs1) (s.triple rs2)))

/-- R167: STATE on ∞, else the affine form. -/
def paffOutcome (rd : Reg) (T : Triple) : EngineOutcome :=
  match affine T with
  | none => .error .state
  | some P => okTriple rd (ofAffine (some P))

/-- PAFF rd, rs1 (R167). -/
def execPaff (rd rs1 : Reg) (s : State) : Host.Outcome State Fault Refusal :=
  s.finish (paffOutcome rd (s.triple rs1))

end Sys2Proof.Machine
end

