-- ==== Sys2Proof/Machine/PointEncoding.lean ====
section
/-!
DEFINITION. Sys2Proof/Machine/PointEncoding.lean: PENC.C, PENC.U, PENC.X, PDEC, PDEC.X, PVALID, PEQ (44_point_encoding.md).
-/

namespace Sys2Proof.Machine

/-- R191: the 33 bytes of the compressed form. -/
def sec1Compressed (T : Triple) : List Byte :=
  match affine T with
  | none => List.replicate 33 0
  | some (x, y) => BitVec.ofNat 8 (0x02 + sgn0 y) :: be32 x.val

/-- R192: the 65 bytes of the uncompressed form. -/
def sec1Uncompressed (T : Triple) : List Byte :=
  match affine T with
  | none => List.replicate 65 0
  | some (x, y) => 0x04 :: (be32 x.val ++ be32 y.val)

/-- PENC.C rs1 (R191). -/
def execPencC (rs1 : Reg) (s : State) : Host.Outcome State Fault Refusal :=
  s.finish (okBuf (sec1Compressed (s.triple rs1)))

/-- PENC.U rs1 (R192). -/
def execPencU (rs1 : Reg) (s : State) : Host.Outcome State Fault Refusal :=
  s.finish (okBuf (sec1Uncompressed (s.triple rs1)))

/-- R193: the x-coordinate, and the parity of y in RESULT. -/
def pencXOutcome (T : Triple) : EngineOutcome :=
  match affine T with
  | none => .error .state
  | some (x, y) => .ok { buf := some (be32 x.val), res := some (sgn0 y == 1) }

/-- PENC.X rs1 (R193). -/
def execPencX (rs1 : Reg) (s : State) : Host.Outcome State Fault Refusal :=
  s.finish (pencXOutcome (s.triple rs1))

/-- A lift into a triple, DOMAIN where there is no point (R190). -/
def liftTriple (xv par : Nat) : Except ErrCode Triple :=
  match lift xv par with
  | none => .error .domain
  | some P => .ok (ofAffine (some P))

/-- R195 for the bytes s = BUF[0..33): the sentinel, a compressed point, or an unknown prefix. -/
def decodeCompressed (s : List Byte) : Except ErrCode Triple :=
  if s = List.replicate 33 0 then .ok INF
  else if s.getD 0 0 = 0x02 ∨ s.getD 0 0 = 0x03 then
    liftTriple (os2ip (s.drop 1)) ((s.getD 0 0).toNat - 0x02)
  else .error .length

/-- R195 for the bytes s = BUF[0..65): the sentinel, an uncompressed point (not checked against the curve), or an unknown
prefix. -/
def decodeUncompressed (s : List Byte) : Except ErrCode Triple :=
  if s = List.replicate 65 0 then .ok INF
  else if s.getD 0 0 = 0x04 then
    if p ≤ os2ip ((s.drop 1).take 32) ∨ p ≤ os2ip (s.drop 33) then .error .domain
    else .ok ⟨toFp (os2ip ((s.drop 1).take 32)), toFp (os2ip (s.drop 33)), 1⟩
  else .error .length

/-- R194, R195. -/
def sec1Decode (b : Block) : Except ErrCode Triple :=
  if b.bufTooLong then .error .size
  else if b.buflen = 33 then decodeCompressed b.bufBytes
  else if b.buflen = 65 then decodeUncompressed b.bufBytes
  else .error .length

/-- A decoded triple into its destination. -/
def pdecOutcome (rd : Reg) (r : Except ErrCode Triple) : EngineOutcome :=
  match r with
  | .error c => .error c
  | .ok T => okTriple rd T

/-- PDEC rd (R195). -/
def execPdec (rd : Reg) (s : State) : Host.Outcome State Fault Refusal :=
  s.finish (pdecOutcome rd (sec1Decode s.toBlock))

/-- R194, R196: the even-y point. -/
def xonlyDecode (b : Block) : Except ErrCode Triple :=
  if b.bufTooLong then .error .size
  else if b.buflen ≠ 32 then .error .length
  else liftTriple (os2ip b.bufBytes) 0

/-- PDEC.X rd (R196). -/
def execPdecX (rd : Reg) (s : State) : Host.Outcome State Fault Refusal :=
  s.finish (pdecOutcome rd (xonlyDecode s.toBlock))

/-- PVALID rs1 (R197). -/
def execPvalid (rs1 : Reg) (s : State) : Host.Outcome State Fault Refusal :=
  s.finish (okRes ((s.triple rs1).Z ≠ 0 && onCurve (s.triple rs1)))

/-- PEQ rs1, rs2 (R198). -/
def execPeq (rs1 rs2 : Reg) (s : State) : Host.Outcome State Fault Refusal :=
  s.finish (okRes (peqF (s.triple rs1) (s.triple rs2)))

end Sys2Proof.Machine
end

