-- ==== Sys2Proof/Machine/ScalarMul.lean ====
section
/-!
DEFINITION. Sys2Proof/Machine/ScalarMul.lean: PMUL, PMUL.S, PMULG, PMULG.S (43_scalar_multiplication.md). The windowed and
the ladder form have one outcome (R186).
-/

namespace Sys2Proof.Machine

/-- R180 into a destination triple. -/
def pmulOutcome (rd : Reg) (T : Triple) (k : Nat) : EngineOutcome :=
  match smul T k with
  | .error c => .error c
  | .ok Q => okTriple rd Q

/-- PMUL rd, rs1, rs2 (R181): point rs1, scalar rs2. -/
def execPmul (rd rs1 rs2 : Reg) (s : State) : Host.Outcome State Fault Refusal :=
  s.finish (pmulOutcome rd (s.triple rs1) (s.val rs2))

/-- PMUL.S rd, rs1, rs2 (R182). -/
def execPmulS (rd rs1 rs2 : Reg) (s : State) : Host.Outcome State Fault Refusal :=
  s.finish (pmulOutcome rd (s.triple rs1) (s.val rs2))

/-- PMULG rd, rs1 (R183). -/
def execPmulg (rd rs1 : Reg) (s : State) : Host.Outcome State Fault Refusal :=
  s.finish (pmulOutcome rd G (s.val rs1))

/-- PMULG.S rd, rs1 (R184). -/
def execPmulgS (rd rs1 : Reg) (s : State) : Host.Outcome State Fault Refusal :=
  s.finish (pmulOutcome rd G (s.val rs1))

end Sys2Proof.Machine
end

