-- ==== Sys2Proof/Machine/Signatures.lean ====
section
/-!
DEFINITION. Sys2Proof/Machine/Signatures.lean: KEYGEN, recoverable ECDSA, BIP340 Schnorr and the BIP341 key path
(45_signatures.md).
-/

namespace Sys2Proof.Machine

/-- A secret, nonce or draw in [1, n − 1] (R214, R215). -/
def scalarOk (v : Nat) : Bool := 1 ≤ v && v ≤ n - 1

/-- Results of `mulG` where the rules say the product is never ∞: for 1 ≤ k ≤ n − 1 (R49); ∞ is kept as (0, 0). -/
def mulGPoint (k : Nat) : Fp × Fp := (mulG k).getD (0, 0)

/-! ## Key generation -/

/-- R214, for the accepted draw v. -/
def keygenOutcome (rd : Reg) (v : Nat) : EngineOutcome :=
  .ok { regs := wrReg rd v ++ wrTriple (rd + 1) (ofAffine (mulG v)) }

/-- KEYGEN rd (R214): draws until one is in [1, n − 1]. -/
def execKeygen (rd : Reg) (s : State) : Host.Outcome State Fault Refusal :=
  s.finishDrawn scalarOk (keygenOutcome rd)

/-! ## Recoverable ECDSA -/

/-- r = Rx mod n (R215). -/
def ecdsaR (k : Nat) : Nat := (mulGPoint k).1.val % n

/-- s = inv_n(k)·(z + r·d) mod n (R215). -/
def ecdsaS (d z k : Nat) : Nat := invN k * (z + ecdsaR k * d) % n

/-- recid = (Ry mod 2) + 2·[Rx ≥ n] (R215). -/
def ecdsaRecid (k : Nat) : Nat := sgn0 (mulGPoint k).2 + 2 * (if n ≤ (mulGPoint k).1.val then 1 else 0)

/-- The wire format r ‖ s ‖ recid, 65 bytes (R221). -/
def ecdsaWire (r s recid : Nat) : List Byte := be32 r ++ be32 s ++ [BitVec.ofNat 8 recid]

/-- ecdsa_core(d, z, k) of R215, with `ECDSA_LOW_S` as an argument. -/
def ecdsaCore (lowS : Bool) (d z k : Nat) : Except ErrCode (List Byte) :=
  if !scalarOk d then .error .domain
  else if !scalarOk k then .error .domain
  else if ecdsaR k = 0 then .error .domain
  else if ecdsaS d z k = 0 then .error .domain
  else if lowS ∧ (n - 1) / 2 < ecdsaS d z k then
    .ok (ecdsaWire (ecdsaR k) (n - ecdsaS d z k) (ecdsaRecid k ^^^ 1))
  else .ok (ecdsaWire (ecdsaR k) (ecdsaS d z k) (ecdsaRecid k))

/-- A signature into BUF and BUFLEN, or its error (R210). -/
def signOutcome (r : Except ErrCode (List Byte)) : EngineOutcome :=
  match r with
  | .error c => .error c
  | .ok sig => okBuf sig

/-- ECDSA.SIGN rs1, rs2, rs3 (R216): secret rs1, hash rs2, nonce rs3. -/
def execEcdsaSign (rs1 rs2 rs3 : Reg) (s : State) : Host.Outcome State Fault Refusal :=
  s.finish (signOutcome (ecdsaCore Config.ecdsaLowS (s.val rs1) (s.val rs2) (s.val rs3)))

/-- The draws that ECDSA.SIGNR accepts as its nonce (R217). -/
def nonceOk (d z k : Nat) : Bool := scalarOk k && ecdsaR k != 0 && ecdsaS d z k != 0

/-- ECDSA.SIGNR rs1, rs2 (R217): the secret is checked before any draw. -/
def execEcdsaSignR (rs1 rs2 : Reg) (s : State) : Host.Outcome State Fault Refusal :=
  if !scalarOk (s.val rs1) then s.finish (.error .domain)
  else
    s.finishDrawn (nonceOk (s.val rs1) (s.val rs2)) fun k =>
      signOutcome (ecdsaCore Config.ecdsaLowS (s.val rs1) (s.val rs2) k)

/-- Q of R218: inv_n(r)·(s·R − (z mod n)·G); none for ∞. -/
def recoverPoint (z r s : Nat) (R : Triple) : Option (Fp × Fp) :=
  affine (mulPoint (invN r) (psubF (mulPoint s R) (mulPoint (z % n) G)))

/-- recover(z, sig) of R218; none for FAIL. -/
def ecdsaRecover (z : Nat) (sig : List Byte) : Option (Fp × Fp) :=
  let r := os2ip (sig.take 32)
  let s := os2ip ((sig.drop 32).take 32)
  let v := (sig.getD 64 0).toNat
  let xr := r + n * (v >>> 1)
  if 3 < v ∨ scalarOk r = false ∨ scalarOk s = false then none
  else if p ≤ xr then none
  else
    match lift xr (v &&& 1) with
    | none => none
    | some R => recoverPoint z r s (ofAffine (some R))

/-- R218. -/
def recoverOutcome (rd : Reg) (z : Nat) (b : Block) : EngineOutcome :=
  if b.bufTooLong then .error .size
  else if b.buflen ≠ 65 then .error .length
  else
    match ecdsaRecover z b.bufBytes with
    | none => .ok { regs := wrTriple rd INF, res := some false }
    | some Q => .ok { regs := wrTriple rd (ofAffine (some Q)), res := some true }

/-- ECDSA.RECOVER rd, rs2 (R218). -/
def execEcdsaRecover (rd rs2 : Reg) (s : State) : Host.Outcome State Fault Refusal :=
  s.finish (recoverOutcome rd (s.val rs2) s.toBlock)

/-- R219: recover, then compare. -/
def ecdsaVerifies (Q0 : Triple) (z : Nat) (sig : List Byte) : Bool :=
  if Q0.Z = 0 ∨ onCurve Q0 = false then false
  else
    match ecdsaRecover z sig with
    | none => false
    | some Q => peqF (ofAffine (some Q)) Q0

/-- R219. -/
def ecdsaVerifyOutcome (Q0 : Triple) (z : Nat) (b : Block) : EngineOutcome :=
  if b.bufTooLong then .error .size
  else if b.buflen ≠ 65 then .error .length
  else okRes (ecdsaVerifies Q0 z b.bufBytes)

/-- ECDSA.VERIFY rs1, rs2 (R219). -/
def execEcdsaVerify (rs1 rs2 : Reg) (s : State) : Host.Outcome State Fault Refusal :=
  s.finish (ecdsaVerifyOutcome (s.triple rs1) (s.val rs2) s.toBlock)

/-! ## Schnorr (BIP340) -/

/-- d0 if d0·G has even y, else n − d0 (R222, R227). -/
def evenSecret (d0 : Nat) : Nat := if evenY (mulGPoint d0) then d0 else n - d0

/-- xb(k·G) (R211). -/
def xbG (k : Nat) : List Byte := be32 (mulGPoint k).1.val

/-- k0 of R222: the nonce before its sign is fixed. -/
def bip340Nonce (d0 : Nat) (a m : List Byte) : Nat :=
  os2ip (hashTag tagNonce (xorBytes (be32 (evenSecret d0)) (hashTag tagAux a) ++ xbG d0 ++ m)) % n

/-- e of R222 and R224. -/
def bip340Challenge (r px m : List Byte) : Nat := os2ip (hashTag tagChallenge (r ++ px ++ m)) % n

/-- bip340_sign(d0, a, m) of R222. -/
def bip340Sign (d0 : Nat) (a m : List Byte) : Except ErrCode (List Byte) :=
  if !scalarOk d0 then .error .domain
  else
    let k0 := bip340Nonce d0 a m
    if k0 = 0 then .error .domain
    else
      let e := bip340Challenge (xbG k0) (xbG d0) m
      .ok (xbG k0 ++ be32 ((evenSecret k0 + e * evenSecret d0) % n))

/-- R223: SIZE before any value. -/
def schnorrSignOutcome (d0 : Nat) (a : List Byte) (b : Block) : EngineOutcome :=
  if b.msgTooLong then .error .size else signOutcome (bip340Sign d0 a b.msgBytes)

/-- SCHNORR.SIGN rs1, rs2 (R223): secret rs1, aux_rand rs2. -/
def execSchnorrSign (rs1 rs2 : Reg) (s : State) : Host.Outcome State Fault Refusal :=
  s.finish (schnorrSignOutcome (s.val rs1) (s.bytes32 rs2) s.toBlock)

/-- bip340_verify(px, m, sig) of R224. -/
def bip340Verify (px : Nat) (m sig : List Byte) : Bool :=
  match liftX px with
  | none => false
  | some P =>
    let r := os2ip (sig.take 32)
    let s := os2ip (sig.drop 32)
    if p ≤ r ∨ n ≤ s then false
    else
      let e := bip340Challenge (sig.take 32) (be32 px) m
      match affine (psubF (mulPoint s G) (mulPoint e (ofAffine (some P)))) with
      | none => false
      | some R => evenY R && R.1.val == r

/-- The checks that SCHNORR.VERIFY and TAP.VERIFY make first, then a predicate of message and signature (R225, R232). -/
def verifyOutcome (b : Block) (pred : List Byte → List Byte → Bool) : EngineOutcome :=
  if b.bufTooLong || b.msgTooLong then .error .size
  else if b.buflen ≠ 64 then .error .length
  else okRes (pred b.msgBytes b.bufBytes)

/-- SCHNORR.VERIFY rs1 (R225). -/
def execSchnorrVerify (rs1 : Reg) (s : State) : Host.Outcome State Fault Refusal :=
  s.finish (verifyOutcome s.toBlock (bip340Verify (s.val rs1)))

/-! ## Taproot (BIP341 key path) -/

/-- t of R227: the tweak of an x-only key with root bytes h, which are empty in the N forms. -/
def tapTweak (px h : List Byte) : Nat := os2ip (hashTag tagTapTweak (px ++ h))

/-- tweak_pub(px, h) of R227: the output key and the parity of its y. -/
def tweakPub (px : Nat) (h : List Byte) : Except ErrCode (Nat × Nat) :=
  match liftX px with
  | none => .error .domain
  | some P =>
    let t := tapTweak (be32 px) h
    if n ≤ t then .error .domain
    else
      match affine (paddF (ofAffine (some P)) (mulPoint t G)) with
      | none => .error .domain
      | some Q => .ok (Q.1.val, sgn0 Q.2)

/-- tweak_sec(d0, h) of R227. -/
def tweakSec (d0 : Nat) (h : List Byte) : Except ErrCode Nat :=
  if !scalarOk d0 then .error .domain
  else
    let t := tapTweak (xbG d0) h
    if n ≤ t then .error .domain
    else
      let dt := (evenSecret d0 + t) % n
      if dt = 0 then .error .domain else .ok dt

/-- R228, R229. -/
def tweakOutcome (rd : Reg) (px : Nat) (h : List Byte) : EngineOutcome :=
  match tweakPub px h with
  | .error c => .error c
  | .ok (qx, par) => .ok { regs := wrReg rd qx, res := some (par == 1) }

/-- TAP.TWEAK rd, rs1, rs2 (R228). -/
def execTapTweak (rd rs1 rs2 : Reg) (s : State) : Host.Outcome State Fault Refusal :=
  s.finish (tweakOutcome rd (s.val rs1) (s.bytes32 rs2))

/-- TAP.TWEAKN rd, rs1 (R229). -/
def execTapTweakN (rd rs1 : Reg) (s : State) : Host.Outcome State Fault Refusal :=
  s.finish (tweakOutcome rd (s.val rs1) [])

/-- R230, R231. -/
def tapSignOutcome (d0 : Nat) (h a : List Byte) (b : Block) : EngineOutcome :=
  if b.msgTooLong then .error .size
  else
    match tweakSec d0 h with
    | .error c => .error c
    | .ok dt => signOutcome (bip340Sign dt a b.msgBytes)

/-- TAP.SIGN rs1, rs2, rs3 (R230): secret rs1, root rs2, aux_rand rs3. -/
def execTapSign (rs1 rs2 rs3 : Reg) (s : State) : Host.Outcome State Fault Refusal :=
  s.finish (tapSignOutcome (s.val rs1) (s.bytes32 rs2) (s.bytes32 rs3) s.toBlock)

/-- TAP.SIGNN rs1, rs3 (R231). -/
def execTapSignN (rs1 rs3 : Reg) (s : State) : Host.Outcome State Fault Refusal :=
  s.finish (tapSignOutcome (s.val rs1) [] (s.bytes32 rs3) s.toBlock)

/-- R232: verification under the tweaked key; a tweak that fails verifies nothing. -/
def tapVerifies (px : Nat) (h m sig : List Byte) : Bool :=
  match tweakPub px h with
  | .error _ => false
  | .ok (qx, _) => bip340Verify qx m sig

/-- TAP.VERIFY rs1, rs2 (R232). -/
def execTapVerify (rs1 rs2 : Reg) (s : State) : Host.Outcome State Fault Refusal :=
  s.finish (verifyOutcome s.toBlock (tapVerifies (s.val rs1) (s.bytes32 rs2)))

/-- TAP.VERIFYN rs1 (R233). -/
def execTapVerifyN (rs1 : Reg) (s : State) : Host.Outcome State Fault Refusal :=
  s.finish (verifyOutcome s.toBlock (tapVerifies (s.val rs1) []))

end Sys2Proof.Machine
end

