-- ==== Sys2Proof/Machine/Dispatch.lean ====
section
/-!
DEFINITION. Sys2Proof/Machine/Dispatch.lean: one arm per command. `exec i s` is the completion step of the command i in
flight at s (R123, R125).
-/

namespace Sys2Proof.Machine

def exec (i : Instr) (s : State) : Host.Outcome State Fault Refusal :=
  match i with
  | .nop => Sys2Proof.Machine.execNop s
  | .ldc rd k => Sys2Proof.Machine.execLdc rd k s
  | .modmul rd rs1 rs2 rs3 => Sys2Proof.Machine.execModmul rd rs1 rs2 rs3 s
  | .modmulS rd rs1 rs2 rs3 => Sys2Proof.Machine.execModmulS rd rs1 rs2 rs3 s
  | .modinv rd rs1 rs3 => Sys2Proof.Machine.execModinv rd rs1 rs3 s
  | .modinvS rd rs1 rs3 => Sys2Proof.Machine.execModinvS rd rs1 rs3 s
  | .modexp rd rs1 rs2 rs3 => Sys2Proof.Machine.execModexp rd rs1 rs2 rs3 s
  | .modexpS rd rs1 rs2 rs3 => Sys2Proof.Machine.execModexpS rd rs1 rs2 rs3 s
  | .padd rd rs1 rs2 => Sys2Proof.Machine.execPadd rd rs1 rs2 s
  | .pdbl rd rs1 => Sys2Proof.Machine.execPdbl rd rs1 s
  | .pneg rd rs1 => Sys2Proof.Machine.execPneg rd rs1 s
  | .psub rd rs1 rs2 => Sys2Proof.Machine.execPsub rd rs1 rs2 s
  | .paff rd rs1 => Sys2Proof.Machine.execPaff rd rs1 s
  | .pmul rd rs1 rs2 => Sys2Proof.Machine.execPmul rd rs1 rs2 s
  | .pmulS rd rs1 rs2 => Sys2Proof.Machine.execPmulS rd rs1 rs2 s
  | .pmulg rd rs1 => Sys2Proof.Machine.execPmulg rd rs1 s
  | .pmulgS rd rs1 => Sys2Proof.Machine.execPmulgS rd rs1 s
  | .pencC rs1 => Sys2Proof.Machine.execPencC rs1 s
  | .pencU rs1 => Sys2Proof.Machine.execPencU rs1 s
  | .pencX rs1 => Sys2Proof.Machine.execPencX rs1 s
  | .pdec rd => Sys2Proof.Machine.execPdec rd s
  | .pdecX rd => Sys2Proof.Machine.execPdecX rd s
  | .pvalid rs1 => Sys2Proof.Machine.execPvalid rs1 s
  | .peq rs1 rs2 => Sys2Proof.Machine.execPeq rs1 rs2 s
  | .keygen rd => Sys2Proof.Machine.execKeygen rd s
  | .ecdsaSign rs1 rs2 rs3 => Sys2Proof.Machine.execEcdsaSign rs1 rs2 rs3 s
  | .ecdsaSignR rs1 rs2 => Sys2Proof.Machine.execEcdsaSignR rs1 rs2 s
  | .ecdsaVerify rs1 rs2 => Sys2Proof.Machine.execEcdsaVerify rs1 rs2 s
  | .ecdsaRecover rd rs2 => Sys2Proof.Machine.execEcdsaRecover rd rs2 s
  | .schnorrSign rs1 rs2 => Sys2Proof.Machine.execSchnorrSign rs1 rs2 s
  | .schnorrVerify rs1 => Sys2Proof.Machine.execSchnorrVerify rs1 s
  | .tapTweak rd rs1 rs2 => Sys2Proof.Machine.execTapTweak rd rs1 rs2 s
  | .tapTweakN rd rs1 => Sys2Proof.Machine.execTapTweakN rd rs1 s
  | .tapSign rs1 rs2 rs3 => Sys2Proof.Machine.execTapSign rs1 rs2 rs3 s
  | .tapSignN rs1 rs3 => Sys2Proof.Machine.execTapSignN rs1 rs3 s
  | .tapVerify rs1 rs2 => Sys2Proof.Machine.execTapVerify rs1 rs2 s
  | .tapVerifyN rs1 => Sys2Proof.Machine.execTapVerifyN rs1 s
  | .h2c rd => Sys2Proof.Machine.execH2c rd s

end Sys2Proof.Machine
end

