-- ==== Sys2Proof/Machine/Engine.lean ====
section
/-!
DEFINITION. Sys2Proof/Machine/Engine.lean: the engine's turn (R121, R123). There is nothing to fetch: the command in flight
is the word CMDLAST (R45, R51, R89).
-/

namespace Sys2Proof.Machine

/-- The completion step of the command in flight (R123): the word is decoded at completion (R106). -/
def runCommand (s : State) : Host.Outcome State Fault Refusal :=
  match decode s.cmdlast with
  | .ok i => exec i s
  | .error _ => execIllegal s

/-- The engine's turn. While it is idle the engine has no step (R121), and the block stays as it is (R302). -/
def engineTurn (s : State) : Host.Outcome State Fault Refusal :=
  if s.busy then runCommand s else .next s

end Sys2Proof.Machine
end

