-- ==== Sys2Proof/Machine/Window.lean ====
section
/-!
DEFINITION. Sys2Proof/Machine/Window.lean: the host's accesses to the window (20_memory.md) and their effects on the
control and status registers (10_state.md R40 to R47).
-/

namespace Sys2Proof.Machine

/-- What an aligned word of the window holds (R40, R72). A `data` word holds bytes of BUF, DST, MSG or an operand register. -/
inductive WindowWord
  | id
  | ctrl
  | status
  | cmd
  | errcode
  | result
  | buflen
  | msglen
  | dstlen
  | data
  | reserved
  deriving DecidableEq, Repr

/-- The window offsets that hold a byte of an operand register (R72). -/
def isRegByte (a : Nat) : Bool := regBase ≤ a && a < regBase + 0x400

/-- R72, by the word's offset. A word with at least one data byte is a data word: 0x2FC holds DST[252..254]. -/
def windowWord (o : Offset) : WindowWord :=
  if o = 0x000 then .id
  else if o = 0x004 then .ctrl
  else if o = 0x008 then .status
  else if o = 0x00C then .cmd
  else if o = 0x010 then .errcode
  else if o = 0x014 then .result
  else if o = 0x018 then .buflen
  else if o = 0x01C then .msglen
  else if o = 0x020 then .dstlen
  else if isBufferByte o.toNat || isRegByte o.toNat then .data
  else .reserved

/-- The operand register and the byte of it at a window offset of the register region (R72, R77). -/
def regAt (a : Nat) : Reg := Fin.ofNat 32 ((a - regBase) / 32)
def regByteAt (a : Nat) : Nat := (a - regBase) % 32

/-- The byte at window offset a of the byte regions (R72, R77); 0 at a reserved byte (R82). -/
def Block.byteAt (b : Block) (a : Nat) : Byte :=
  if isBufferByte a then b.mem.read a
  else if isRegByte a then valByte (b.reg (regAt a)) (regByteAt a)
  else 0

/-- byte(a) <- v; a reserved byte ignores it (R75, R82). -/
def Block.setByteAt (b : Block) (a : Nat) (v : Byte) : Block :=
  if isBufferByte a then { b with mem := b.mem.write a v }
  else if isRegByte a then b.setReg (regAt a) (setValByte (b.reg (regAt a)) (regByteAt a) v)
  else b

/-- The data word at offset a (R74). -/
def Block.dataWord (b : Block) (a : Nat) : Word :=
  packLanes (b.byteAt a) (b.byteAt (a + 1)) (b.byteAt (a + 2)) (b.byteAt (a + 3))

/-- The write of a data word at offset a (R75). -/
def Block.setDataWord (b : Block) (a : Nat) (w : Word) : Block :=
  (((b.setByteAt a (lane w 0)).setByteAt (a + 1) (lane w 1)).setByteAt (a + 2) (lane w 2)).setByteAt (a + 3) (lane w 3)

/-- `MemRead(o, 4)` of R74 at an aligned offset, for a data word while BUSY = 0. -/
def Block.readWord (b : Block) (o : Offset) : Word :=
  match windowWord o with
  | .id => idValue
  | .ctrl => b.ctrlWord
  | .status => b.statusWord
  | .cmd => b.cmdlast
  | .errcode => b.errcodeWord
  | .result => b.resultWord
  | .buflen => b.buflen.setWidth 32
  | .msglen => b.msglen.setWidth 32
  | .dstlen => b.dstlen.setWidth 32
  | .data => b.dataWord o.toNat
  | .reserved => 0

/-- A write that BUSY = 1 drops, setting WBUSY (R80). -/
def Block.guardBusy (b new : Block) : Block := if b.busy then { b with wbusy := true } else new

/-- `MemWrite(o, 4, w)` of R75, R80 and R42 to R44 at an aligned offset, for every word but a soft reset's. -/
def Block.writeWord (b : Block) (o : Offset) (w : Word) : Block :=
  match windowWord o with
  | .id => b
  | .ctrl => { b with ie := w.getLsbD 0 }
  | .status => b.clearStatus w
  | .cmd => if b.busy then { b with ovr := true } else b.accept w
  | .errcode => b
  | .result => b
  | .buflen => b.guardBusy { b with buflen := w.setWidth 8 }
  | .msglen => b.guardBusy { b with msglen := w.setWidth 16 }
  | .dstlen => b.guardBusy { b with dstlen := w.setWidth 8 }
  | .data => b.guardBusy (b.setDataWord o.toNat w)
  | .reserved => b

/-- A CTRL write with SRST = 1 (R42, R312). -/
def isSoftReset (o : Offset) (w : Word) : Bool := windowWord o == .ctrl && w.getLsbD 1

def aligned (o : Offset) : Bool := o.toNat % 4 == 0

/-- The lanes of a data word that hold data: all but the reserved byte 0x2FF (R74, R82). -/
def dataLanes (o : Offset) : Word := if o = 0x2FC then 0x00FFFFFF else 0xFFFFFFFF

/-- A host read of the aligned word at o (R74). While BUSY = 1 a data word reads as a free value (R81), but for the
reserved byte 0x2FF, which reads 0 at all times (R82; log 4). -/
def State.hostRead (s : State) (o : Offset) : State :=
  if s.busy && windowWord o == .data then
    { s with reply := .word (Config.busyRead s.busyReads &&& dataLanes o), busyReads := s.busyReads + 1 }
  else { s with reply := .word (s.readWord o) }

/-- A host write of the aligned word at o (R75, R80, R312). -/
def State.hostWrite (s : State) (o : Offset) (w : Word) : State :=
  if isSoftReset o w then s.resetBlock
  else { s with toBlock := s.toBlock.writeWord o w, reply := .nothing }

/-- The bus error of an access that is not an aligned 32-bit one: no effect on the block (R73). -/
def State.busError (s : State) : State := { s with reply := .busError }

/-- One move of the host (R91). -/
def State.hostMove (s : State) (m : HostMove) : State :=
  match m with
  | .read o => if aligned o then s.hostRead o else s.busError
  | .write o w => if aligned o then s.hostWrite o w else s.busError
  | .other _ _ => s.busError
  | .observeIrq => { s with reply := .irq s.irq }

end Sys2Proof.Machine
end

