-- ==== Sys2Proof/Machine/Step.lean ====
section
/-!
DEFINITION. Sys2Proof/Machine/Step.lean: one transition of the block (R21): an engine turn, a move of the host, or the
platform's reset.
-/

namespace Sys2Proof.Machine

/-- The next event of the total order of R86; with none ahead, it is the engine's turn, so a command in flight does not
wait for ever (R333 a; log 1). -/
def step (s : State) : Host.Outcome State Fault Refusal :=
  match s.script with
  | [] => engineTurn s
  | .engine :: rest => engineTurn { s with script := rest }
  | .host m :: rest => .next ({ s with script := rest }.hostMove m)
  | .hardReset :: rest => .next { s with script := rest }.resetBlock

/-- The command word is accepted (R122) and the next event is the engine's turn, so that the very next step completes it. -/
def State.withFetchWord (s : State) (nbits w : Nat) : State :=
  { s with
    toBlock := s.toBlock.accept (BitVec.ofNat 32 (w % 2 ^ nbits))
    script := .engine :: s.script }

end Sys2Proof.Machine
end

