-- ==== Sys2Proof/Safety.lean ====
section
/-!
DEFINITION. Sys2Proof/Safety.lean: the words that claims about the block are stated in: the invariant of every state, what a
completion leaves alone, the shapes of a completion, which registers a command may write, the group E as Mathlib has it, and
how R109 lays a word out.
-/

namespace Sys2Proof.Machine

/-! ## The invariant -/

/-- What holds of the block after reset and after every step: the canonical memory; ERRCODE holds a code of R281 (R46);
while a command is in flight DONE, ERR and ERRCODE are 0 (R122, R43); ERR = 1 only with a code other than 0 (R43). -/
structure Inv (b : Block) : Prop where
  mem : b.mem.wf
  code : b.errcode.toNat ≤ 5
  flight : b.busy = true → b.done = false ∧ b.err = false ∧ b.errcode = 0
  coded : b.err = true → b.errcode ≠ 0

/-- The table of R55. -/
structure AtReset (b : Block) : Prop where
  regs : ∀ i : Reg, b.reg i = 0
  mem : ∀ a : Nat, b.mem.read a = 0
  buflen : b.buflen = 0
  msglen : b.msglen = 0
  dstlen : b.dstlen = 0
  ctrl : b.ie = false ∧ b.readWord 0x004 = 0
  status : b.busy = false ∧ b.done = false ∧ b.err = false ∧ b.ovr = false ∧ b.wbusy = false
  cmdlast : b.cmdlast = 0
  errcode : b.errcode = 0
  res : b.res = false
  irq : b.irq = false
  id : b.readWord 0x000 = 0x54534307

/-! ## What two states share -/

/-- Every byte of BUF, DST and MSG reads the same. -/
def SameMem (b c : Block) : Prop := ∀ a : Nat, c.mem.read a = b.mem.read a

/-- The data state of R123: operand registers, buffers, length registers and RESULT. -/
structure SameData (b c : Block) : Prop where
  regs : c.regs = b.regs
  mem : SameMem b c
  buflen : c.buflen = b.buflen
  msglen : c.msglen = b.msglen
  dstlen : c.dstlen = b.dstlen
  res : c.res = b.res

/-- What no command writes: MSGLEN, DSTLEN, CTRL.IE, STATUS.OVR and WBUSY, CMDLAST, and every byte outside BUF. -/
structure SameHostSide (b c : Block) : Prop where
  mem : ∀ a : Nat, ¬(0x100 ≤ a ∧ a < 0x180) → c.mem.read a = b.mem.read a
  msglen : c.msglen = b.msglen
  dstlen : c.dstlen = b.dstlen
  ie : c.ie = b.ie
  ovr : c.ovr = b.ovr
  wbusy : c.wbusy = b.wbusy
  cmdlast : c.cmdlast = b.cmdlast

/-- The model's own fields but for the draws: what happens next, the host's last reply, and the count of busy reads. -/
structure SameAgents (s t : State) : Prop where
  script : t.script = s.script
  reply : t.reply = s.reply
  busyReads : t.busyReads = s.busyReads

/-- The draws that wait and the count of those taken. -/
structure SameDraws (s t : State) : Prop where
  entropy : t.entropy = s.entropy
  drawn : t.drawn = s.drawn

/-! ## Completions (R124) -/

/-- A completion with code 0, as far as it does not depend on the command; draws excepted. -/
structure Completes (s t : State) : Prop where
  busy : t.busy = false
  done : t.done = true
  err : t.err = false
  errcode : t.errcode = 0
  host : SameHostSide s.toBlock t.toBlock
  agents : SameAgents s t

/-- A completion with error code c: no data is written (R288). -/
structure FailsWith (c : ErrCode) (s t : State) : Prop where
  busy : t.busy = false
  done : t.done = true
  err : t.err = true
  errcode : t.errcode = c.code
  data : SameData s.toBlock t.toBlock
  host : SameHostSide s.toBlock t.toBlock
  agents : SameAgents s t
  draws : SameDraws s t

/-- A completion with code 0 that writes no data at all. -/
structure WritesNothing (s t : State) : Prop where
  completes : Completes s t
  draws : SameDraws s t
  data : SameData s.toBlock t.toBlock

/-- A completion with code 0 that writes v to x[rd] and no other register or byte. -/
structure PutsReg (s t : State) (rd : Reg) (v : Nat) : Prop where
  completes : Completes s t
  draws : SameDraws s t
  dest : t.reg rd = BitVec.ofNat 256 v
  regs : ∀ j, j ≠ rd → t.reg j = s.reg j
  mem : SameMem s.toBlock t.toBlock
  buflen : t.buflen = s.buflen

/-- A completion with code 0 that writes v to x[rd] and nothing else. -/
structure WritesReg (s t : State) (rd : Reg) (v : Nat) : Prop where
  puts : PutsReg s t rd v
  res : t.res = s.res

/-- A completion with code 0 that writes the coordinates of T to x[rd], x[rd+1], x[rd+2] and no other register or byte. -/
structure PutsTriple (s t : State) (rd : Reg) (T : Triple) : Prop where
  completes : Completes s t
  draws : SameDraws s t
  destX : t.reg rd = BitVec.ofNat 256 T.X.val
  destY : t.reg (rd + 1) = BitVec.ofNat 256 T.Y.val
  destZ : t.reg (rd + 2) = BitVec.ofNat 256 T.Z.val
  regs : ∀ j, j ≠ rd → j ≠ rd + 1 → j ≠ rd + 2 → t.reg j = s.reg j
  mem : SameMem s.toBlock t.toBlock
  buflen : t.buflen = s.buflen

/-- A completion with code 0 that writes a triple and nothing else. -/
structure WritesTriple (s t : State) (rd : Reg) (T : Triple) : Prop where
  puts : PutsTriple s t rd T
  res : t.res = s.res

/-- A completion with code 0 that writes BUF[0..L) and BUFLEN and, of the rest, at most RESULT. -/
structure PutsBuf (s t : State) (bytes : List Byte) : Prop where
  completes : Completes s t
  draws : SameDraws s t
  written : ∀ k : Nat, k < bytes.length → t.mem.read (0x100 + k) = bytes.getD k 0
  others : ∀ a : Nat, ¬(0x100 ≤ a ∧ a < 0x100 + bytes.length) → t.mem.read a = s.mem.read a
  buflen : t.buflen = BitVec.ofNat 8 bytes.length
  regs : t.regs = s.regs

/-- The same after draws: BUF[0..L), BUFLEN and nothing else of the data; the draws are said beside it. -/
structure DrawsBuf (s t : State) (bytes : List Byte) : Prop where
  completes : Completes s t
  written : ∀ k : Nat, k < bytes.length → t.mem.read (0x100 + k) = bytes.getD k 0
  others : ∀ a : Nat, ¬(0x100 ≤ a ∧ a < 0x100 + bytes.length) → t.mem.read a = s.mem.read a
  buflen : t.buflen = BitVec.ofNat 8 bytes.length
  regs : t.regs = s.regs
  res : t.res = s.res

/-- A completion with code 0 that writes RESULT and nothing else. -/
structure WritesRes (s t : State) (r : Bool) : Prop where
  completes : Completes s t
  draws : SameDraws s t
  res : t.res = r
  regs : t.regs = s.regs
  mem : SameMem s.toBlock t.toBlock
  buflen : t.buflen = s.buflen

/-- x and y are the affine coordinates of T (R16, R33): X/Z² and Y/Z³, with the inverse of Z. -/
def AffineOf (T : Triple) (x y : Fp) : Prop :=
  ∃ zi, T.Z * zi = 1 ∧ x = T.X * (zi * zi) ∧ y = T.Y * (zi * zi * zi)

/-! ## Which command may write what -/

/-- The operand registers a command names as destinations (R32, R105). -/
def dests : Instr → List Reg
  | .nop => []
  | .ldc rd _ => [rd]
  | .modmul rd _ _ _ => [rd]
  | .modmulS rd _ _ _ => [rd]
  | .modinv rd _ _ => [rd]
  | .modinvS rd _ _ => [rd]
  | .modexp rd _ _ _ => [rd]
  | .modexpS rd _ _ _ => [rd]
  | .padd rd _ _ => [rd, rd + 1, rd + 2]
  | .pdbl rd _ => [rd, rd + 1, rd + 2]
  | .pneg rd _ => [rd, rd + 1, rd + 2]
  | .psub rd _ _ => [rd, rd + 1, rd + 2]
  | .paff rd _ => [rd, rd + 1, rd + 2]
  | .pmul rd _ _ => [rd, rd + 1, rd + 2]
  | .pmulS rd _ _ => [rd, rd + 1, rd + 2]
  | .pmulg rd _ => [rd, rd + 1, rd + 2]
  | .pmulgS rd _ => [rd, rd + 1, rd + 2]
  | .pencC _ => []
  | .pencU _ => []
  | .pencX _ => []
  | .pdec rd => [rd, rd + 1, rd + 2]
  | .pdecX rd => [rd, rd + 1, rd + 2]
  | .pvalid _ => []
  | .peq _ _ => []
  | .keygen rd => [rd, rd + 1, rd + 2, rd + 3]
  | .ecdsaSign _ _ _ => []
  | .ecdsaSignR _ _ => []
  | .ecdsaVerify _ _ => []
  | .ecdsaRecover rd _ => [rd, rd + 1, rd + 2]
  | .schnorrSign _ _ => []
  | .schnorrVerify _ => []
  | .tapTweak rd _ _ => [rd]
  | .tapTweakN rd _ => [rd]
  | .tapSign _ _ _ => []
  | .tapSignN _ _ => []
  | .tapVerify _ _ => []
  | .tapVerifyN _ => []
  | .h2c rd => [rd, rd + 1, rd + 2]

/-- The predicate commands of R47. -/
def isPredicate : Instr → Bool
  | .pencX _ => true
  | .pvalid _ => true
  | .peq _ _ => true
  | .ecdsaVerify _ _ => true
  | .ecdsaRecover _ _ => true
  | .schnorrVerify _ => true
  | .tapTweak _ _ _ => true
  | .tapTweakN _ _ => true
  | .tapVerify _ _ => true
  | .tapVerifyN _ => true
  | _ => false

/-- The commands of R34 that write BUF. -/
def writesBuf : Instr → Bool
  | .pencC _ => true
  | .pencU _ => true
  | .pencX _ => true
  | .ecdsaSign _ _ _ => true
  | .ecdsaSignR _ _ => true
  | .schnorrSign _ _ => true
  | .tapSign _ _ _ => true
  | .tapSignN _ _ => true
  | _ => false

/-- The commands that run a rejection loop over draws (R125). -/
def draws : Instr → Bool
  | .keygen _ => true
  | .ecdsaSignR _ _ => true
  | _ => false

/-- The table of R287: the errors a command can raise besides ILLEGAL. -/
def listedErrors : Instr → List ErrCode
  | .nop => []
  | .ldc _ _ => []
  | .modmul _ _ _ _ => [.domain]
  | .modmulS _ _ _ _ => [.domain]
  | .modinv _ _ _ => [.domain]
  | .modinvS _ _ _ => [.domain]
  | .modexp _ _ _ _ => [.domain]
  | .modexpS _ _ _ _ => [.domain]
  | .padd _ _ _ => []
  | .pdbl _ _ => []
  | .pneg _ _ => []
  | .psub _ _ _ => []
  | .paff _ _ => [.state]
  | .pmul _ _ _ => [.domain]
  | .pmulS _ _ _ => [.domain]
  | .pmulg _ _ => []
  | .pmulgS _ _ => []
  | .pencC _ => []
  | .pencU _ => []
  | .pencX _ => [.state]
  | .pdec _ => [.size, .length, .domain]
  | .pdecX _ => [.size, .length, .domain]
  | .pvalid _ => []
  | .peq _ _ => []
  | .keygen _ => []
  | .ecdsaSign _ _ _ => [.domain]
  | .ecdsaSignR _ _ => [.domain]
  | .ecdsaVerify _ _ => [.size, .length]
  | .ecdsaRecover _ _ => [.size, .length]
  | .schnorrSign _ _ => [.size, .domain]
  | .schnorrVerify _ => [.size, .length]
  | .tapTweak _ _ _ => [.domain]
  | .tapTweakN _ _ => [.domain]
  | .tapSign _ _ _ => [.size, .domain]
  | .tapSignN _ _ => [.size, .domain]
  | .tapVerify _ _ => [.size, .length]
  | .tapVerifyN _ => [.size, .length]
  | .h2c _ => [.size, .length]

/-! ## The group E (R16, R49) -/

/-- y² = x³ + 7 over GF(p) (R2, R48), as an affine Weierstrass curve of Mathlib, whose nonsingular points with ∞ are the
group E of R16. -/
def secp : WeierstrassCurve.Affine (ZMod p) where
  a₁ := 0
  a₂ := 0
  a₃ := 0
  a₄ := 0
  a₆ := 7

/-- A coordinate as an element of Mathlib's GF(p). -/
def toZ (a : Fp) : ZMod p := (a.val : ZMod p)

/-- T is a Jacobian triple of the point P of E (R33): ∞ when Z = 0, else (X/Z², Y/Z³). -/
def Denotes (T : Triple) (P : secp.Point) : Prop :=
  (T.Z = 0 ∧ P = .zero) ∨
    (T.Z ≠ 0 ∧ ∃ x y h, P = .some x y h ∧ toZ T.X = x * toZ T.Z ^ 2 ∧ toZ T.Y = y * toZ T.Z ^ 3)

/-- A triple as the engine writes an affine result: INF, or (x, y, 1) (R33). -/
def Normalised (T : Triple) : Prop := T = ⟨1, 1, 0⟩ ∨ T.Z = 1

/-- The triple lies on secp256k1 or denotes ∞ (R180). -/
def OnCurveOrInf (T : Triple) : Prop :=
  T.Z = 0 ∨ T.Y * T.Y = T.X * T.X * T.X + 7 * (T.Z * T.Z * T.Z * T.Z * T.Z * T.Z)

/-! ## Words, turns and the host's duties -/

/-- The word of R109: OPC | RD<<8 | RS1<<13 | RS2<<18 | RS3<<23 | MODE<<28. -/
def cmdWord (opc mode : Nat) (rd rs1 rs2 rs3 : Reg) : Word :=
  BitVec.ofNat 32
    (opc ||| rd.val <<< 8 ||| rs1.val <<< 13 ||| rs2.val <<< 18 ||| rs3.val <<< 23 ||| mode <<< 28)

/-- The command i has the encoding of its row in R105: its word is the word of R109, which decodes back to i where the
operands keep the limits of R101 and is illegal where they do not. -/
structure EncodedAs (i : Instr) (opc mode : Nat) (rd rs1 rs2 rs3 : Reg) : Prop where
  word : encode i = cmdWord opc mode rd rs1 rs2 rs3
  legal : i.wf = true → decode (cmdWord opc mode rd rs1 rs2 rs3) = .ok i
  illegal : i.wf = false → decode (cmdWord opc mode rd rs1 rs2 rs3) = .error .range

/-- The opcode and mode pairs of R104. -/
def assigned : List (BitVec 8 × BitVec 4) :=
  [ (0x00, 0), (0x01, 0), (0x10, 0), (0x11, 0), (0x12, 0), (0x13, 0), (0x14, 0), (0x15, 0), (0x20, 0), (0x21, 0),
    (0x22, 0), (0x23, 0), (0x24, 0), (0x30, 0), (0x31, 0), (0x32, 0), (0x33, 0), (0x40, 0), (0x40, 1), (0x40, 2) ] ++
  [ (0x41, 0), (0x41, 1), (0x42, 0), (0x43, 0), (0x50, 0), (0x51, 0), (0x51, 1), (0x52, 0), (0x53, 0), (0x54, 0),
    (0x55, 0), (0x56, 0), (0x56, 1), (0x57, 0), (0x57, 1), (0x58, 0), (0x58, 1), (0x60, 0) ]

/-- It is the engine's turn: by the script, or because the script is empty. -/
def EngineNext (s : State) : Prop := s.script = [] ∨ ∃ rest, s.script = .engine :: rest

/-- The state with the script past the event that is about to happen. -/
def State.past (s : State) : State := { s with script := s.script.tail }

/-- The next event is the host's move m. -/
def HostNext (s : State) (m : HostMove) : Prop := ∃ rest, s.script = .host m :: rest

end Sys2Proof.Machine
end

