-- ==== Sys2Proof/Certificates/Slice0/Obligations.lean ====
section
/-!
DEFINITION. Sys2Proof/Certificates/Slice0/Obligations.lean: the statements for the provers, from the rules R<n> of spec/.
A statement about one command says its encoding, where it completes and with which state, where it ends in which error, and
through the shapes of Safety.lean everything that it leaves unchanged.
-/

open Sys2Proof Sys2Proof.Machine

/-! ## Encoding (30_encoding.md) -/

/-- The example words of R109 decode to the commands they stand for, and are those commands' words. -/
def Obligations.ExampleWordsDecode : Prop :=
  decode 0x00082310 = .ok (.modmul 3 1 2 0) ∧ encode (.modmul 3 1 2 0) = 0x00082310 ∧
  decode 0x00004001 = .ok (.ldc 0 2) ∧ encode (.ldc 0 2) = 0x00004001 ∧
  decode 0x00186020 = .ok (.padd 0 3 6) ∧ encode (.padd 0 3 6) = 0x00186020 ∧
  decode 0x01882051 = .ok (.ecdsaSign 1 2 3) ∧ encode (.ecdsaSign 1 2 3) = 0x01882051 ∧
  decode 0x20008040 = .ok (.pencX 4) ∧ encode (.pencX 4) = 0x20008040 ∧
  decode 0x11802057 = .ok (.tapSignN 1 3) ∧ encode (.tapSignN 1 3) = 0x11802057 ∧
  decode 0x00000000 = .ok .nop ∧ encode .nop = 0x00000000

/-- Decoding and encoding agree (R101, R106, R109): the word of every well-formed command decodes to that command, the word of
every other command is rejected for the range of an operand, and a word that decodes is the one word of its command. -/
def Obligations.DecodeAndEncodeAgree : Prop :=
  (∀ i : Instr, (i.wf = true → decode (encode i) = .ok i) ∧ (i.wf = false → decode (encode i) = .error .range)) ∧
  ∀ (w : Word) (i : Instr), decode w = .ok i → encode i = w ∧ i.wf = true

/-- The decoding function of R106: at most one row matches a word by mask and match, and the word decodes to the command of
that row exactly when its used fields keep their ranges. -/
def Obligations.DecodeSelectsUniqueRow : Prop :=
  ∀ w : Word,
    (rows.filter fun r => w &&& r.mask == r.pattern).length ≤ 1 ∧
    ∀ i : Instr, decode w = .ok i ↔
      ∃ r ∈ rows, w &&& r.mask = r.pattern ∧ r.inRange (fieldsOf w) = true ∧ r.build (fieldsOf w) = i

/-- R107 and R128: the four classes of illegal words, with the opcode map of R104, and the completion of an illegal word. Which
class names a word that falls under two is the model's choice (log 10) and not visible in the block. -/
def Obligations.IllegalWordsComplete : Prop :=
  (∀ w : Word,
    (opcOf w ∉ assigned.map Prod.fst → decode w = .error .opcode) ∧
    (opcOf w ∈ assigned.map Prod.fst → (opcOf w, modeOf w) ∉ assigned → decode w = .error .mode) ∧
    ∀ r ∈ rows, r.opc = opcOf w → r.mode = modeOf w →
      (r.unusedZero (fieldsOf w) = false → decode w = .error .unusedField) ∧
      (r.unusedZero (fieldsOf w) = true → r.inRange (fieldsOf w) = false → decode w = .error .range)) ∧
  ∀ (s : State) (c : Illegal), EngineNext s → s.busy = true → decode s.cmdlast = .error c →
    ∃ t, step s = .next t ∧ FailsWith .illegal s.past t

/-! ## The engine's turn (40_engine_control.md) -/

/-- A turn of the engine runs the command that CMDLAST decodes to; with no command in flight it leaves the block as it is
(R121, R123). The word placed by `withFetchWord` is the one that the very next step runs. -/
def Obligations.StepRunsDecodedCommand : Prop :=
  (∀ (s : State) (i : Instr), EngineNext s → s.busy = true → decode s.cmdlast = .ok i → step s = exec i s.past) ∧
  (∀ s : State, EngineNext s → s.busy = false → step s = .next s.past) ∧
  ∀ (s : State) (w : Word) (i : Instr), decode w = .ok i →
    step (s.withFetchWord 32 w.toNat) = exec i { s with toBlock := s.accept w }

/-- R122: what acceptance writes, and that a CMD write while BUSY = 1 is dropped and sets OVR. -/
def Obligations.CmdWriteAccepts : Prop :=
  ∀ (s : State) (w : Word), HostNext s (.write 0x00C w) →
    ∃ t, step s = .next t ∧
      (s.busy = false →
        t.toBlock = { s.toBlock with cmdlast := w, busy := true, done := false, err := false, errcode := 0 }) ∧
      (s.busy = true → t.toBlock = { s.toBlock with ovr := true })

/-- Every step answers a next state: no event of the block stops it (R280, R294). And a command that draws nothing completes in
every state: it is no longer in flight, DONE is set, and either the code is 0 or it is one of 1 to 5 with no data written
(R124, R125). -/
def Obligations.StepsAnswerAndCommandsComplete : Prop :=
  (∀ s : State, ∃ t, step s = .next t) ∧
  ∀ (i : Instr) (s : State), draws i = false →
    ∃ t, exec i s = .next t ∧ t.busy = false ∧ t.done = true ∧ SameAgents s t ∧ SameDraws s t ∧
      ((t.err = false ∧ t.errcode = 0) ∨
        (t.err = true ∧ 1 ≤ t.errcode.toNat ∧ t.errcode.toNat ≤ 5 ∧ SameData s.toBlock t.toBlock))

/-- R287 and R288: a command raises no error but those its row of R287 lists (ILLEGAL is no outcome of a decoded command),
and an error is precise. -/
def Obligations.ErrorsAreListedAndPrecise : Prop :=
  ∀ (i : Instr) (s t : State), s.busy = true → exec i s = .next t → t.busy = false → t.err = true →
    (∃ c ∈ listedErrors i, t.errcode = c.code) ∧ t.done = true ∧ t.cmdlast = s.cmdlast ∧ SameData s.toBlock t.toBlock

/-- The frame of every command: only its destinations change among the operand registers (R32), only a predicate command
writes RESULT (R47), and only the commands of R34 write BUF or BUFLEN (R37); all other bytes of memory stay. -/
def Obligations.CommandsWriteOnlyTheirOwn : Prop :=
  ∀ (i : Instr) (s t : State), exec i s = .next t →
    (∀ j, j ∉ dests i → t.reg j = s.reg j) ∧
    (isPredicate i = false → t.res = s.res) ∧
    (writesBuf i = false → SameMem s.toBlock t.toBlock ∧ t.buflen = s.buflen)

/-- No command writes MSG, DST, their lengths, CTRL, OVR, WBUSY or CMDLAST (R35, R36, R38, R39), and none touches the host's
side of the state. -/
def Obligations.CommandsKeepHostSide : Prop :=
  ∀ (i : Instr) (s t : State), s.mem.wf → exec i s = .next t → SameHostSide s.toBlock t.toBlock ∧ SameAgents s t

/-- R126 and R127: NOP writes no data, and a word with opcode 0x00 and any other bit set is illegal; LDC loads the constants
of R48. -/
def Obligations.NopAndConstants : Prop :=
  (∀ s : State, encode .nop = 0 ∧ ∃ t, exec .nop s = .next t ∧ WritesNothing s t) ∧
  (∀ w : Word, opcOf w = 0 → w ≠ 0 → ∃ c, decode w = .error c) ∧
  ∀ (rd k : Reg) (s : State), EncodedAs (.ldc rd k) 0x01 0 rd k 0 0 ∧
    (k.val ≤ 6 → ∃ t, exec (.ldc rd k) s = .next t ∧ WritesReg s t rd
      ([0, 1, 0xFFFFFFFFFFFFFFFFFFFFFFFFFFFFFFFFFFFFFFFFFFFFFFFFFFFFFFFEFFFFFC2F,
        0xFFFFFFFFFFFFFFFFFFFFFFFFFFFFFFFEBAAEDCE6AF48A03BBFD25E8CD0364141,
        0x79BE667EF9DCBBAC55A06295CE870B07029BFCDB2DCE28D959F2815B16F81798,
        0x483ADA7726A3C4655DA4FBFC0E1108A8FD17B448A68554199C47D08FFB10D4B8, 7].getD k.val 0))

/-! ## Modular arithmetic (41_modular_arithmetic.md) -/

/-- R141, for MODMUL and for MODMUL.S. -/
def Obligations.ModmulMultiplies : Prop :=
  ∀ (rd rs1 rs2 rs3 : Reg) (s : State),
    EncodedAs (.modmul rd rs1 rs2 rs3) 0x10 0 rd rs1 rs2 rs3 ∧
    EncodedAs (.modmulS rd rs1 rs2 rs3) 0x11 0 rd rs1 rs2 rs3 ∧
    ∀ i, i = .modmul rd rs1 rs2 rs3 ∨ i = .modmulS rd rs1 rs2 rs3 →
      ((s.reg rs3).toNat = 0 → ∃ t, exec i s = .next t ∧ FailsWith .domain s t) ∧
      ((s.reg rs3).toNat ≠ 0 → ∃ t, exec i s = .next t ∧
        WritesReg s t rd ((s.reg rs1).toNat * (s.reg rs2).toNat % (s.reg rs3).toNat))

/-- R143, for MODINV and for MODINV.S: the value written is the unique inverse in [0, m). -/
def Obligations.ModinvInverts : Prop :=
  ∀ (rd rs1 rs3 : Reg) (s : State) (a m : Nat), (s.reg rs1).toNat = a → (s.reg rs3).toNat = m →
    EncodedAs (.modinv rd rs1 rs3) 0x12 0 rd rs1 0 rs3 ∧ EncodedAs (.modinvS rd rs1 rs3) 0x13 0 rd rs1 0 rs3 ∧
    ∀ i, i = .modinv rd rs1 rs3 ∨ i = .modinvS rd rs1 rs3 →
      (m = 0 → ∃ t, exec i s = .next t ∧ FailsWith .domain s t) ∧
      (m ≠ 0 → Nat.gcd (a % m) m ≠ 1 → ∃ t, exec i s = .next t ∧ FailsWith .domain s t) ∧
      (m ≠ 0 → Nat.gcd (a % m) m = 1 →
        ∃ v t, exec i s = .next t ∧ WritesReg s t rd v ∧ v < m ∧ a * v % m = 1 % m ∧
          ∀ u, u < m → a * u % m = 1 % m → u = v)

/-- R145, for MODEXP and for MODEXP.S: the mathematical power, with 0^0 = 1. -/
def Obligations.ModexpPowers : Prop :=
  ∀ (rd rs1 rs2 rs3 : Reg) (s : State),
    EncodedAs (.modexp rd rs1 rs2 rs3) 0x14 0 rd rs1 rs2 rs3 ∧
    EncodedAs (.modexpS rd rs1 rs2 rs3) 0x15 0 rd rs1 rs2 rs3 ∧
    ∀ i, i = .modexp rd rs1 rs2 rs3 ∨ i = .modexpS rd rs1 rs2 rs3 →
      ((s.reg rs3).toNat = 0 → ∃ t, exec i s = .next t ∧ FailsWith .domain s t) ∧
      ((s.reg rs3).toNat ≠ 0 → ∃ t, exec i s = .next t ∧
        WritesReg s t rd ((s.reg rs1).toNat ^ (s.reg rs2).toNat % (s.reg rs3).toNat))

/-- R149 and R186: a constant-time form has the outcome of its plain form. -/
def Obligations.SecureFormsAgree : Prop :=
  ∀ (rd rs1 rs2 rs3 : Reg) (s : State),
    exec (.modmulS rd rs1 rs2 rs3) s = exec (.modmul rd rs1 rs2 rs3) s ∧
    exec (.modinvS rd rs1 rs3) s = exec (.modinv rd rs1 rs3) s ∧
    exec (.modexpS rd rs1 rs2 rs3) s = exec (.modexp rd rs1 rs2 rs3) s ∧
    exec (.pmulS rd rs1 rs2) s = exec (.pmul rd rs1 rs2) s ∧
    exec (.pmulgS rd rs1) s = exec (.pmulg rd rs1) s

/-! ## Point arithmetic (42_point_arithmetic.md) -/

/-- R161, branch by branch, on the coordinates taken mod p; the last branch writes Z ≠ 0, and with the operands exchanged it
writes (X, −Y, −Z). -/
def Obligations.PaddAddsTriples : Prop :=
  ∀ (rd rs1 rs2 : Reg) (s : State) (A B : Triple),
    A.X.val = (s.reg rs1).toNat % p → A.Y.val = (s.reg (rs1 + 1)).toNat % p → A.Z.val = (s.reg (rs1 + 2)).toNat % p →
    B.X.val = (s.reg rs2).toNat % p → B.Y.val = (s.reg (rs2 + 1)).toNat % p → B.Z.val = (s.reg (rs2 + 2)).toNat % p →
    EncodedAs (.padd rd rs1 rs2) 0x20 0 rd rs1 rs2 0 ∧
    ∃ T t, exec (.padd rd rs1 rs2) s = .next t ∧ WritesTriple s t rd T ∧
      (A.Z = 0 → B.Z = 0 → T = ⟨1, 1, 0⟩) ∧
      (A.Z = 0 → B.Z ≠ 0 → T = B) ∧
      (A.Z ≠ 0 → B.Z = 0 → T = A) ∧
      (A.Z ≠ 0 → B.Z ≠ 0 →
        let U1 := A.X * (B.Z * B.Z)
        let U2 := B.X * (A.Z * A.Z)
        let S1 := A.Y * (B.Z * B.Z * B.Z)
        let S2 := B.Y * (A.Z * A.Z * A.Z)
        let H := U2 - U1
        let R := S2 - S1
        (U1 = U2 → S1 = S2 → T = pdblF A) ∧
        (U1 = U2 → S1 ≠ S2 → T = ⟨1, 1, 0⟩) ∧
        (U1 ≠ U2 →
          T.X = R * R - H * H * H - 2 * U1 * (H * H) ∧ T.Y = R * (U1 * (H * H) - T.X) - S1 * (H * H * H) ∧
          T.Z = H * A.Z * B.Z ∧ T.Z ≠ 0 ∧ paddF B A = ⟨T.X, -T.Y, -T.Z⟩))

/-- R163, and R164: PADD of a triple with itself writes what PDBL writes. -/
def Obligations.PdblDoublesTriples : Prop :=
  ∀ (rd rs1 : Reg) (s : State) (A : Triple),
    A.X.val = (s.reg rs1).toNat % p → A.Y.val = (s.reg (rs1 + 1)).toNat % p → A.Z.val = (s.reg (rs1 + 2)).toNat % p →
    EncodedAs (.pdbl rd rs1) 0x21 0 rd rs1 0 0 ∧
    (A.Z ≠ 0 → A.Y ≠ 0 → exec (.padd rd rs1 rs1) s = exec (.pdbl rd rs1) s) ∧
    ∃ T t, exec (.pdbl rd rs1) s = .next t ∧ WritesTriple s t rd T ∧
      (A.Z = 0 → T = ⟨1, 1, 0⟩) ∧
      (A.Z ≠ 0 →
        let S := 4 * A.X * (A.Y * A.Y)
        let M := 3 * (A.X * A.X)
        (2 * A.Y * A.Z = 0 → T = ⟨1, 1, 0⟩) ∧
        (2 * A.Y * A.Z ≠ 0 →
          T.X = M * M - 2 * S ∧ T.Y = M * (S - T.X) - 8 * (A.Y * A.Y * (A.Y * A.Y)) ∧ T.Z = 2 * A.Y * A.Z))

/-- R165 and R166: PNEG writes (X, −Y, Z), and PSUB adds the negated second operand. PNEG twice gives the operand back, PSUB
of a triple with itself gives INF, and PSUB from ∞ negates. -/
def Obligations.PnegAndPsub : Prop :=
  ∀ (rd rs1 rs2 : Reg) (s : State) (A B : Triple),
    A.X.val = (s.reg rs1).toNat % p → A.Y.val = (s.reg (rs1 + 1)).toNat % p → A.Z.val = (s.reg (rs1 + 2)).toNat % p →
    B.X.val = (s.reg rs2).toNat % p → B.Y.val = (s.reg (rs2 + 1)).toNat % p → B.Z.val = (s.reg (rs2 + 2)).toNat % p →
    EncodedAs (.pneg rd rs1) 0x22 0 rd rs1 0 0 ∧ EncodedAs (.psub rd rs1 rs2) 0x23 0 rd rs1 rs2 0 ∧
    (∃ T t, exec (.pneg rd rs1) s = .next t ∧ WritesTriple s t rd T ∧
      (A.Z = 0 → T = ⟨1, 1, 0⟩) ∧
      (A.Z ≠ 0 → T.X = A.X ∧ T.Y.val = (p - A.Y.val) % p ∧ T.Z = A.Z) ∧
      ∃ u, exec (.pneg rd rd) t = .next u ∧ WritesTriple t u rd (if A.Z = 0 then ⟨1, 1, 0⟩ else A)) ∧
    ∃ T N t, exec (.psub rd rs1 rs2) s = .next t ∧ WritesTriple s t rd T ∧ T = paddF A N ∧
      (B.Z = 0 → N = ⟨1, 1, 0⟩) ∧ (B.Z ≠ 0 → N.X = B.X ∧ N.Y.val = (p - B.Y.val) % p ∧ N.Z = B.Z) ∧
      (A = B → A.Z ≠ 0 → T = ⟨1, 1, 0⟩) ∧ (B.Z = 0 → T = if A.Z = 0 then ⟨1, 1, 0⟩ else A) ∧ (A.Z = 0 → T = N)

/-- R167: STATE on ∞, else the affine coordinates with Z = 1. -/
def Obligations.PaffNormalises : Prop :=
  ∀ (rd rs1 : Reg) (s : State) (A : Triple),
    A.X.val = (s.reg rs1).toNat % p → A.Y.val = (s.reg (rs1 + 1)).toNat % p → A.Z.val = (s.reg (rs1 + 2)).toNat % p →
    EncodedAs (.paff rd rs1) 0x24 0 rd rs1 0 0 ∧
    (A.Z = 0 → ∃ t, exec (.paff rd rs1) s = .next t ∧ FailsWith .state s t) ∧
    (A.Z ≠ 0 → ∃ x y t, exec (.paff rd rs1) s = .next t ∧ WritesTriple s t rd ⟨x, y, 1⟩ ∧ AffineOf A x y)

/-- R168: what PADD, PDBL, PNEG and PSUB write is INF or has Z ≠ 0, with coordinates below p, and PAFF's result has Z = 1. -/
def Obligations.PointResultsAreNormal : Prop :=
  ∀ (rd rs1 rs2 : Reg) (s t : State) (i : Instr),
    (i = .padd rd rs1 rs2 ∨ i = .pdbl rd rs1 ∨ i = .pneg rd rs1 ∨ i = .psub rd rs1 rs2 → exec i s = .next t →
      (t.reg rd).toNat < p ∧ (t.reg (rd + 1)).toNat < p ∧ (t.reg (rd + 2)).toNat < p ∧
      (t.reg (rd + 2) = 0 → t.reg rd = 1 ∧ t.reg (rd + 1) = 1)) ∧
    (i = .paff rd rs1 → exec i s = .next t → t.err = false → t.reg (rd + 2) = 1)

/-- R162: on triples of points of E, PADD's formulas compute the group operation of E. -/
def Obligations.PaddIsGroupAddition : Prop :=
  ∀ [Fact (Nat.Prime p)] (A B : Triple) (P Q : secp.Point), Denotes A P → Denotes B Q →
    Denotes (paddF A B) (P + Q) ∧ Denotes (pdblF A) (P + P) ∧ Denotes (pnegF A) (-P) ∧ Denotes (psubF A B) (P - Q)

/-! ## Scalar multiplication (43_scalar_multiplication.md) -/

/-- R180 and R181, for PMUL and for PMUL.S: (k mod n)·P in the group E, normalised; DOMAIN off the curve. -/
def Obligations.PmulMultipliesPoints : Prop :=
  ∀ [Fact (Nat.Prime p)] (rd rs1 rs2 : Reg) (s : State),
    EncodedAs (.pmul rd rs1 rs2) 0x30 0 rd rs1 rs2 0 ∧ EncodedAs (.pmulS rd rs1 rs2) 0x31 0 rd rs1 rs2 0 ∧
    ∀ i, i = .pmul rd rs1 rs2 ∨ i = .pmulS rd rs1 rs2 →
      (¬OnCurveOrInf (s.triple rs1) → ∃ t, exec i s = .next t ∧ FailsWith .domain s t) ∧
      (OnCurveOrInf (s.triple rs1) →
        ∃ P T t, Denotes (s.triple rs1) P ∧ exec i s = .next t ∧ WritesTriple s t rd T ∧ Normalised T ∧
          Denotes T (((s.reg rs2).toNat % n) • P))

/-- R183, for PMULG and for PMULG.S: k·G in the group E, for every k below 2^256 (so that n·G = ∞), normalised. -/
def Obligations.PmulgMultipliesGenerator : Prop :=
  ∀ [Fact (Nat.Prime p)], ∃ g : secp.Point, Denotes ⟨toFp Gx, toFp Gy, 1⟩ g ∧
    ∀ (rd rs1 : Reg) (s : State),
      EncodedAs (.pmulg rd rs1) 0x32 0 rd rs1 0 0 ∧ EncodedAs (.pmulgS rd rs1) 0x33 0 rd rs1 0 0 ∧
      ∀ i, i = .pmulg rd rs1 ∨ i = .pmulgS rd rs1 →
        ∃ T t, exec i s = .next t ∧ WritesTriple s t rd T ∧ Normalised T ∧ Denotes T ((s.reg rs1).toNat • g)

/-- The helpers of R15 and R211 that the signature rules use: for a scalar k in [1, n − 1], k·G is never ∞ and `mulGPoint`
gives its coordinates, and `invN` gives the inverse of k mod n. -/
def Obligations.GeneratorMultiplesAndInverses : Prop :=
  ∀ [Fact (Nat.Prime p)] (g : secp.Point), Denotes G g → ∀ k : Nat, 1 ≤ k → k ≤ n - 1 →
    Denotes ⟨(mulGPoint k).1, (mulGPoint k).2, 1⟩ (k • g) ∧ invN k < n ∧ k * invN k % n = 1

/-! ## Point encoding (44_point_encoding.md) -/

/-- `be32` and `int` of R11, in which every byte string of the signature and encoding rules is written. -/
def Obligations.BytesAreBigEndian : Prop :=
  (∀ v : Nat, v < 2 ^ 256 → (be32 v).length = 32 ∧ os2ip (be32 v) = v ∧
    ∀ j, j < 32 → (be32 v).getD j 0 = BitVec.ofNat 8 (v / 256 ^ (31 - j))) ∧
  ∀ b : List Byte, b.length = 32 → be32 (os2ip b) = b

/-- R191 and R192: the SEC1 encodings. -/
def Obligations.PencWritesSec1 : Prop :=
  ∀ (rs1 : Reg) (s : State), s.mem.wf →
    EncodedAs (.pencC rs1) 0x40 0 0 rs1 0 0 ∧ EncodedAs (.pencU rs1) 0x40 1 0 rs1 0 0 ∧
    ((s.triple rs1).Z = 0 →
      (∃ t, exec (.pencC rs1) s = .next t ∧ PutsBuf s t (List.replicate 33 0) ∧ t.res = s.res) ∧
      ∃ t, exec (.pencU rs1) s = .next t ∧ PutsBuf s t (List.replicate 65 0) ∧ t.res = s.res) ∧
    ((s.triple rs1).Z ≠ 0 → ∃ x y, AffineOf (s.triple rs1) x y ∧
      (∃ t, exec (.pencC rs1) s = .next t ∧
        PutsBuf s t (BitVec.ofNat 8 (0x02 + y.val % 2) :: be32 x.val) ∧ t.res = s.res) ∧
      ∃ t, exec (.pencU rs1) s = .next t ∧ PutsBuf s t (0x04 :: (be32 x.val ++ be32 y.val)) ∧ t.res = s.res)

/-- R193: the x-only encoding and the parity of y. -/
def Obligations.PencXWritesXOnly : Prop :=
  ∀ (rs1 : Reg) (s : State), s.mem.wf →
    EncodedAs (.pencX rs1) 0x40 2 0 rs1 0 0 ∧
    ((s.triple rs1).Z = 0 → ∃ t, exec (.pencX rs1) s = .next t ∧ FailsWith .state s t) ∧
    ((s.triple rs1).Z ≠ 0 → ∃ x y t, AffineOf (s.triple rs1) x y ∧ exec (.pencX rs1) s = .next t ∧
      PutsBuf s t (be32 x.val) ∧ t.res = decide (y.val % 2 = 1))

/-- The helper `lift` of R190 finds exactly the points of the curve with the given x and parity of y. -/
def Obligations.LiftFindsThePoint : Prop :=
  ∀ (xv par : Nat) (x y : Fp), par < 2 →
    (lift xv par = some (x, y) ↔ x.val = xv ∧ y * y = x * x * x + 7 ∧ y.val % 2 = par)

/-- R194, R195 and R196: what PDEC and PDEC.X recognise, in the order SIZE, LENGTH, DOMAIN. -/
def Obligations.PdecDecodes : Prop :=
  ∀ (rd : Reg) (s : State) (L : Nat) (b : List Byte), s.buflen.toNat = L →
    b = (List.range L).map (fun k => s.mem.read (0x100 + k)) →
    EncodedAs (.pdec rd) 0x41 0 rd 0 0 0 ∧ EncodedAs (.pdecX rd) 0x41 1 rd 0 0 0 ∧
    (128 < L → ∀ i, i = .pdec rd ∨ i = .pdecX rd → ∃ t, exec i s = .next t ∧ FailsWith .size s t) ∧
    (L ≤ 128 → L ≠ 33 → L ≠ 65 → ∃ t, exec (.pdec rd) s = .next t ∧ FailsWith .length s t) ∧
    (L = 33 ∨ L = 65 → b = List.replicate L 0 → ∃ t, exec (.pdec rd) s = .next t ∧ WritesTriple s t rd ⟨1, 1, 0⟩) ∧
    (L = 33 → b ≠ List.replicate 33 0 →
      (b.getD 0 0 ≠ 2 → b.getD 0 0 ≠ 3 → ∃ t, exec (.pdec rd) s = .next t ∧ FailsWith .length s t) ∧
      ∀ par, b.getD 0 0 = BitVec.ofNat 8 (2 + par) → par < 2 →
        (lift (os2ip (b.drop 1)) par = none → ∃ t, exec (.pdec rd) s = .next t ∧ FailsWith .domain s t) ∧
        ∀ x y, lift (os2ip (b.drop 1)) par = some (x, y) →
          ∃ t, exec (.pdec rd) s = .next t ∧ WritesTriple s t rd ⟨x, y, 1⟩) ∧
    (L = 65 → b ≠ List.replicate 65 0 →
      (b.getD 0 0 ≠ 4 → ∃ t, exec (.pdec rd) s = .next t ∧ FailsWith .length s t) ∧
      (b.getD 0 0 = 4 →
        (p ≤ os2ip ((b.drop 1).take 32) ∨ p ≤ os2ip (b.drop 33) →
          ∃ t, exec (.pdec rd) s = .next t ∧ FailsWith .domain s t) ∧
        ∀ x y : Fp, x.val = os2ip ((b.drop 1).take 32) → y.val = os2ip (b.drop 33) →
          ∃ t, exec (.pdec rd) s = .next t ∧ WritesTriple s t rd ⟨x, y, 1⟩)) ∧
    (L ≤ 128 → L ≠ 32 → ∃ t, exec (.pdecX rd) s = .next t ∧ FailsWith .length s t) ∧
    (L = 32 →
      (lift (os2ip b) 0 = none → ∃ t, exec (.pdecX rd) s = .next t ∧ FailsWith .domain s t) ∧
      ∀ x y, lift (os2ip b) 0 = some (x, y) → ∃ t, exec (.pdecX rd) s = .next t ∧ WritesTriple s t rd ⟨x, y, 1⟩)

/-- R197 and R198: PVALID is the curve test, and PEQ holds exactly when both triples denote ∞ or the same affine point. -/
def Obligations.PvalidAndPeqTest : Prop :=
  ∀ (rs1 rs2 : Reg) (s : State) (A B : Triple), s.triple rs1 = A → s.triple rs2 = B →
    EncodedAs (.pvalid rs1) 0x42 0 0 rs1 0 0 ∧ EncodedAs (.peq rs1 rs2) 0x43 0 0 rs1 rs2 0 ∧
    (∃ t, exec (.pvalid rs1) s = .next t ∧
      WritesRes s t (decide (A.Z ≠ 0 ∧ A.Y * A.Y = A.X * A.X * A.X + 7 * (A.Z * A.Z * A.Z * A.Z * A.Z * A.Z)))) ∧
    ∃ r t, exec (.peq rs1 rs2) s = .next t ∧ WritesRes s t r ∧
      (A.Z = 0 → B.Z = 0 → r = true) ∧ (A.Z = 0 → B.Z ≠ 0 → r = false) ∧ (A.Z ≠ 0 → B.Z = 0 → r = false) ∧
      (A.Z ≠ 0 → B.Z ≠ 0 →
        (r = true ↔ A.X * (B.Z * B.Z) = B.X * (A.Z * A.Z) ∧ A.Y * (B.Z * B.Z * B.Z) = B.Y * (A.Z * A.Z * A.Z)) ∧
        (r = true ↔ ∃ x y, AffineOf A x y ∧ AffineOf B x y))

/-- R199: decoding what an encoding command wrote gives the affine form of the point: uncompressed for every triple, compressed
for every triple on the curve, x-only the point itself for an even y and its negation, with RESULT = 1, for an odd y. -/
def Obligations.EncodingsRoundTrip : Prop :=
  ∀ (rd rs1 : Reg) (s : State), s.mem.wf →
    (∃ t u, exec (.pencU rs1) s = .next t ∧ exec (.pdec rd) t = .next u ∧
      WritesTriple t u rd (normal (s.triple rs1))) ∧
    (OnCurveOrInf (s.triple rs1) → ∃ t u, exec (.pencC rs1) s = .next t ∧ exec (.pdec rd) t = .next u ∧
      WritesTriple t u rd (normal (s.triple rs1))) ∧
    (OnCurveOrInf (s.triple rs1) → (s.triple rs1).Z ≠ 0 →
      ∃ x y t u, AffineOf (s.triple rs1) x y ∧ exec (.pencX rs1) s = .next t ∧ exec (.pdecX rd) t = .next u ∧
        (y.val % 2 = 0 → t.res = false ∧ WritesTriple t u rd (normal (s.triple rs1))) ∧
        (y.val % 2 = 1 → t.res = true ∧ WritesTriple t u rd (normal (pnegF (s.triple rs1)))))

/-! ## Key generation and signatures (45_signatures.md) -/

/-- R214: KEYGEN takes draws in order, discards those outside [1, n − 1], and completes with the first accepted one. The last
clause is the model's own (log 2): when no draw that waits is accepted, the next draw of the source decides, and until one is
accepted the command stays in flight with the block unchanged. -/
def Obligations.KeygenWritesKeyPair : Prop :=
  ∀ (rd : Reg) (s : State) (rej : List Val), (∀ d ∈ rej, ¬(1 ≤ d.toNat ∧ d.toNat ≤ n - 1)) →
    EncodedAs (.keygen rd) 0x50 0 rd 0 0 0 ∧
    (∀ (d : Val) (rest : List Val), s.entropy = rej ++ d :: rest → 1 ≤ d.toNat → d.toNat ≤ n - 1 →
      ∃ t, exec (.keygen rd) s = .next t ∧ Completes s t ∧ t.entropy = rest ∧ t.drawn = s.drawn ∧
        t.reg rd = d ∧ t.reg (rd + 1) = BitVec.ofNat 256 (mulGPoint d.toNat).1.val ∧
        t.reg (rd + 2) = BitVec.ofNat 256 (mulGPoint d.toNat).2.val ∧ t.reg (rd + 3) = 1 ∧
        (∀ j, j ≠ rd → j ≠ rd + 1 → j ≠ rd + 2 → j ≠ rd + 3 → t.reg j = s.reg j) ∧
        SameMem s.toBlock t.toBlock ∧ t.buflen = s.buflen ∧ t.res = s.res) ∧
    (s.entropy = rej →
      ∃ t, exec (.keygen rd) s = .next t ∧ t.entropy = [] ∧ t.drawn = s.drawn + 1 ∧
        (1 ≤ (Config.draw s.drawn).toNat ∧ (Config.draw s.drawn).toNat ≤ n - 1 →
          Completes s t ∧ t.reg rd = Config.draw s.drawn) ∧
        (¬(1 ≤ (Config.draw s.drawn).toNat ∧ (Config.draw s.drawn).toNat ≤ n - 1) → t.toBlock = s.toBlock))

/-- R215 and R216: the checks of ecdsa_core in their order, and the signature, with `ECDSA_LOW_S` false as R8 decides. -/
def Obligations.EcdsaSignSigns : Prop :=
  ∀ (rs1 rs2 rs3 : Reg) (s : State) (d z k r v : Nat), s.mem.wf →
    (s.reg rs1).toNat = d → (s.reg rs2).toNat = z → (s.reg rs3).toNat = k →
    r = (mulGPoint k).1.val % n → v = invN k * (z + r * d) % n →
    EncodedAs (.ecdsaSign rs1 rs2 rs3) 0x51 0 0 rs1 rs2 rs3 ∧
    (¬(1 ≤ d ∧ d ≤ n - 1) ∨ ¬(1 ≤ k ∧ k ≤ n - 1) ∨ r = 0 ∨ v = 0 →
      ∃ t, exec (.ecdsaSign rs1 rs2 rs3) s = .next t ∧ FailsWith .domain s t) ∧
    (1 ≤ d → d ≤ n - 1 → 1 ≤ k → k ≤ n - 1 → r ≠ 0 → v ≠ 0 →
      ∃ t, exec (.ecdsaSign rs1 rs2 rs3) s = .next t ∧ t.res = s.res ∧
        PutsBuf s t (be32 r ++ be32 v ++
          [BitVec.ofNat 8 ((mulGPoint k).2.val % 2 + 2 * (if n ≤ (mulGPoint k).1.val then 1 else 0))]))

/-- R217: ECDSA.SIGNR checks the secret before any draw, then signs as ECDSA.SIGN does with the first draw it accepts. The last
clause is the model's own (log 2): when no draw that waits is accepted, the next draw of the source decides, and until one is
accepted the command stays in flight with the block unchanged. -/
def Obligations.EcdsaSignRSigns : Prop :=
  ∀ (rs1 rs2 : Reg) (s : State) (d z : Nat) (good : Nat → Prop) (sig : Nat → List Byte), s.mem.wf →
    (s.reg rs1).toNat = d → (s.reg rs2).toNat = z →
    (∀ k, good k ↔ 1 ≤ k ∧ k ≤ n - 1 ∧ (mulGPoint k).1.val % n ≠ 0 ∧
      invN k * (z + (mulGPoint k).1.val % n * d) % n ≠ 0) →
    (∀ k, sig k = be32 ((mulGPoint k).1.val % n) ++ be32 (invN k * (z + (mulGPoint k).1.val % n * d) % n) ++
      [BitVec.ofNat 8 ((mulGPoint k).2.val % 2 + 2 * (if n ≤ (mulGPoint k).1.val then 1 else 0))]) →
    EncodedAs (.ecdsaSignR rs1 rs2) 0x51 1 0 rs1 rs2 0 ∧
    (¬(1 ≤ d ∧ d ≤ n - 1) → ∃ t, exec (.ecdsaSignR rs1 rs2) s = .next t ∧ FailsWith .domain s t) ∧
    (1 ≤ d → d ≤ n - 1 → ∀ rej : List Val, (∀ x ∈ rej, ¬good x.toNat) →
      (∀ (k : Val) (rest : List Val), s.entropy = rej ++ k :: rest → good k.toNat →
        ∃ t, exec (.ecdsaSignR rs1 rs2) s = .next t ∧ DrawsBuf s t (sig k.toNat) ∧ t.entropy = rest ∧ t.drawn = s.drawn) ∧
      (s.entropy = rej →
        ∃ t, exec (.ecdsaSignR rs1 rs2) s = .next t ∧ t.entropy = [] ∧ t.drawn = s.drawn + 1 ∧
          (good (Config.draw s.drawn).toNat → DrawsBuf s t (sig (Config.draw s.drawn).toNat)) ∧
          (¬good (Config.draw s.drawn).toNat → t.toBlock = s.toBlock)))

/-- R218: the length checks, the failures, and the recovered key as a point of E: r⁻¹·(s·R − (z mod n)·G). -/
def Obligations.EcdsaRecoverRecovers : Prop :=
  ∀ (rd rs2 : Reg) (s : State) (sig : List Byte) (r v id : Nat),
    sig = (List.range 65).map (fun k => s.mem.read (0x100 + k)) →
    r = os2ip (sig.take 32) → v = os2ip ((sig.drop 32).take 32) → id = (sig.getD 64 0).toNat →
    EncodedAs (.ecdsaRecover rd rs2) 0x53 0 rd 0 rs2 0 ∧
    (128 < s.buflen.toNat → ∃ t, exec (.ecdsaRecover rd rs2) s = .next t ∧ FailsWith .size s t) ∧
    (s.buflen.toNat ≤ 128 → s.buflen.toNat ≠ 65 →
      ∃ t, exec (.ecdsaRecover rd rs2) s = .next t ∧ FailsWith .length s t) ∧
    (s.buflen.toNat = 65 →
      (3 < id ∨ ¬(1 ≤ r ∧ r ≤ n - 1) ∨ ¬(1 ≤ v ∧ v ≤ n - 1) ∨ p ≤ r + n * (id / 2) ∨
          lift (r + n * (id / 2)) (id % 2) = none →
        ∃ t, exec (.ecdsaRecover rd rs2) s = .next t ∧ PutsTriple s t rd ⟨1, 1, 0⟩ ∧ t.res = false) ∧
      ∀ [Fact (Nat.Prime p)] (x y : Fp) (R g : secp.Point),
        id ≤ 3 → 1 ≤ r → r ≤ n - 1 → 1 ≤ v → v ≤ n - 1 → lift (r + n * (id / 2)) (id % 2) = some (x, y) →
        Denotes ⟨x, y, 1⟩ R → Denotes G g →
        ∃ Q t, exec (.ecdsaRecover rd rs2) s = .next t ∧ PutsTriple s t rd Q ∧ Normalised Q ∧
          t.res = decide (Q.Z ≠ 0) ∧ Denotes Q (invN r • (v • R - ((s.reg rs2).toNat % n) • g)))

/-- R219: the length checks, an unusable key, and otherwise recovery and comparison by PEQ. -/
def Obligations.EcdsaVerifyCompares : Prop :=
  ∀ (rd rs1 rs2 : Reg) (s : State) (Q0 : Triple), s.triple rs1 = Q0 →
    EncodedAs (.ecdsaVerify rs1 rs2) 0x52 0 0 rs1 rs2 0 ∧
    (128 < s.buflen.toNat → ∃ t, exec (.ecdsaVerify rs1 rs2) s = .next t ∧ FailsWith .size s t) ∧
    (s.buflen.toNat ≤ 128 → s.buflen.toNat ≠ 65 →
      ∃ t, exec (.ecdsaVerify rs1 rs2) s = .next t ∧ FailsWith .length s t) ∧
    (s.buflen.toNat = 65 →
      (Q0.Z = 0 ∨ ¬OnCurveOrInf Q0 → ∃ t, exec (.ecdsaVerify rs1 rs2) s = .next t ∧ WritesRes s t false) ∧
      (Q0.Z ≠ 0 → OnCurveOrInf Q0 →
        ∃ u t, exec (.ecdsaRecover rd rs2) s = .next u ∧ exec (.ecdsaVerify rs1 rs2) s = .next t ∧
          WritesRes s t (u.res && peqF (u.triple rd) Q0)))

/-- R220: for every secret, hash and nonce that ECDSA.SIGN accepts, ECDSA.RECOVER gives the public key d·G with RESULT = 1, and
ECDSA.VERIFY under that key gives 1. -/
def Obligations.EcdsaSignThenVerify : Prop :=
  ∀ (rd r1 r2 r3 : Reg) (s t : State), s.busy = true → s.mem.wf → exec (.ecdsaSign r1 r2 r3) s = .next t → t.err = false →
    r2 ≠ rd → r2 ≠ rd + 1 → r2 ≠ rd + 2 →
    ∃ u w, exec (.ecdsaRecover rd r2) t = .next u ∧ u.res = true ∧
      u.triple rd = ⟨(mulGPoint (s.reg r1).toNat).1, (mulGPoint (s.reg r1).toNat).2, 1⟩ ∧
      exec (.ecdsaVerify rd r2) u = .next w ∧ WritesRes u w true

/-- R222 and R223: BIP340 signing, step by step. -/
def Obligations.SchnorrSignSigns : Prop :=
  (∀ (d0 : Nat) (a m : List Byte),
    (¬(1 ≤ d0 ∧ d0 ≤ n - 1) → bip340Sign d0 a m = .error .domain) ∧
    (1 ≤ d0 → d0 ≤ n - 1 → ∀ (d k0 k e : Nat) (px rx : List Byte),
      px = be32 (mulGPoint d0).1.val →
      d = (if (mulGPoint d0).2.val % 2 = 0 then d0 else n - d0) →
      k0 = os2ip (hashTag tagNonce (List.zipWith (· ^^^ ·) (be32 d) (hashTag tagAux a) ++ px ++ m)) % n →
      rx = be32 (mulGPoint k0).1.val →
      k = (if (mulGPoint k0).2.val % 2 = 0 then k0 else n - k0) →
      e = os2ip (hashTag tagChallenge (rx ++ px ++ m)) % n →
      (k0 = 0 → bip340Sign d0 a m = .error .domain) ∧
      (k0 ≠ 0 → bip340Sign d0 a m = .ok (rx ++ be32 ((k + e * d) % n))))) ∧
  ∀ (rs1 rs2 : Reg) (s : State) (m : List Byte), s.mem.wf →
    m = (List.range s.msglen.toNat).map (fun k => s.mem.read (0x800 + k)) →
    EncodedAs (.schnorrSign rs1 rs2) 0x54 0 0 rs1 rs2 0 ∧
    (1024 < s.msglen.toNat → ∃ t, exec (.schnorrSign rs1 rs2) s = .next t ∧ FailsWith .size s t) ∧
    (s.msglen.toNat ≤ 1024 →
      (∀ c, bip340Sign (s.reg rs1).toNat (be32 (s.reg rs2).toNat) m = .error c →
        ∃ t, exec (.schnorrSign rs1 rs2) s = .next t ∧ FailsWith .domain s t) ∧
      ∀ sig, bip340Sign (s.reg rs1).toNat (be32 (s.reg rs2).toNat) m = .ok sig →
        ∃ t, exec (.schnorrSign rs1 rs2) s = .next t ∧ PutsBuf s t sig ∧ sig.length = 64 ∧ t.res = s.res)

/-- R224 and R225: BIP340 verification, with R = s·G − e·P a point of E. -/
def Obligations.SchnorrVerifyVerifies : Prop :=
  (∀ (px r v e : Nat) (m sig : List Byte), sig.length = 64 → r = os2ip (sig.take 32) → v = os2ip (sig.drop 32) →
    e = os2ip (hashTag tagChallenge (sig.take 32 ++ be32 px ++ m)) % n →
    (lift px 0 = none ∨ p ≤ r ∨ n ≤ v → bip340Verify px m sig = false) ∧
    ∀ [Fact (Nat.Prime p)] (x y : Fp) (P g : secp.Point), lift px 0 = some (x, y) → r < p → v < n →
      Denotes ⟨x, y, 1⟩ P → Denotes G g →
      (bip340Verify px m sig = true ↔ ∃ rx ry h, v • g - e • P = .some rx ry h ∧ ry.val % 2 = 0 ∧ rx.val = r)) ∧
  ∀ (rs1 : Reg) (s : State) (m sig : List Byte),
    m = (List.range s.msglen.toNat).map (fun k => s.mem.read (0x800 + k)) →
    sig = (List.range 64).map (fun k => s.mem.read (0x100 + k)) →
    EncodedAs (.schnorrVerify rs1) 0x55 0 0 rs1 0 0 ∧
    (128 < s.buflen.toNat ∨ 1024 < s.msglen.toNat →
      ∃ t, exec (.schnorrVerify rs1) s = .next t ∧ FailsWith .size s t) ∧
    (s.buflen.toNat ≤ 128 → s.msglen.toNat ≤ 1024 → s.buflen.toNat ≠ 64 →
      ∃ t, exec (.schnorrVerify rs1) s = .next t ∧ FailsWith .length s t) ∧
    (s.buflen.toNat = 64 → s.msglen.toNat ≤ 1024 →
      ∃ t, exec (.schnorrVerify rs1) s = .next t ∧ WritesRes s t (bip340Verify (s.reg rs1).toNat m sig))

/-- R226: for every secret, aux_rand and message that SCHNORR.SIGN accepts, SCHNORR.VERIFY with the x-only key of the secret
gives 1; and d and n − d give the same signature. -/
def Obligations.SchnorrSignThenVerify : Prop :=
  (∀ (r1 r2 rx : Reg) (s t : State), s.busy = true → s.mem.wf → exec (.schnorrSign r1 r2) s = .next t → t.err = false →
    (t.reg rx).toNat = (mulGPoint (s.reg r1).toNat).1.val →
    ∃ u, exec (.schnorrVerify rx) t = .next u ∧ WritesRes t u true) ∧
  ∀ (d : Nat) (a m : List Byte), 1 ≤ d → d ≤ n - 1 → bip340Sign (n - d) a m = bip340Sign d a m

/-- R227, R228 and R229: the tweaked output key x(P + t·G) and the parity of its y, or DOMAIN with nothing written. -/
def Obligations.TapTweakTweaks : Prop :=
  ∀ (rd rs1 rs2 : Reg) (s : State) (px k : Nat) (i : Instr) (h : List Byte), (s.reg rs1).toNat = px →
    (i = .tapTweak rd rs1 rs2 ∧ h = be32 (s.reg rs2).toNat ∨ i = .tapTweakN rd rs1 ∧ h = []) →
    k = os2ip (hashTag tagTapTweak (be32 px ++ h)) →
    EncodedAs (.tapTweak rd rs1 rs2) 0x56 0 rd rs1 rs2 0 ∧ EncodedAs (.tapTweakN rd rs1) 0x56 1 rd rs1 0 0 ∧
    (lift px 0 = none ∨ n ≤ k → ∃ t, exec i s = .next t ∧ FailsWith .domain s t) ∧
    ∀ [Fact (Nat.Prime p)] (x y : Fp) (P g : secp.Point), lift px 0 = some (x, y) → k < n →
      Denotes ⟨x, y, 1⟩ P → Denotes G g →
      (P + k • g = 0 → ∃ t, exec i s = .next t ∧ FailsWith .domain s t) ∧
      ∀ qx qy hq, P + k • g = .some qx qy hq →
        ∃ t, exec i s = .next t ∧ PutsReg s t rd qx.val ∧ t.res = decide (qy.val % 2 = 1)

/-- R230 and R231: key-path signing is BIP340 signing under the tweaked secret of R227. -/
def Obligations.TapSignSigns : Prop :=
  ∀ (rs1 rs2 rs3 : Reg) (s : State) (d0 d k : Nat) (i : Instr) (h m : List Byte), s.mem.wf → (s.reg rs1).toNat = d0 →
    (i = .tapSign rs1 rs2 rs3 ∧ h = be32 (s.reg rs2).toNat ∨ i = .tapSignN rs1 rs3 ∧ h = []) →
    m = (List.range s.msglen.toNat).map (fun j => s.mem.read (0x800 + j)) →
    d = (if (mulGPoint d0).2.val % 2 = 0 then d0 else n - d0) →
    k = os2ip (hashTag tagTapTweak (be32 (mulGPoint d0).1.val ++ h)) →
    EncodedAs (.tapSign rs1 rs2 rs3) 0x57 0 0 rs1 rs2 rs3 ∧ EncodedAs (.tapSignN rs1 rs3) 0x57 1 0 rs1 0 rs3 ∧
    (1024 < s.msglen.toNat → ∃ t, exec i s = .next t ∧ FailsWith .size s t) ∧
    (s.msglen.toNat ≤ 1024 →
      (¬(1 ≤ d0 ∧ d0 ≤ n - 1) ∨ n ≤ k ∨ (d + k) % n = 0 → ∃ t, exec i s = .next t ∧ FailsWith .domain s t) ∧
      (1 ≤ d0 → d0 ≤ n - 1 → k < n → (d + k) % n ≠ 0 →
        (∀ c, bip340Sign ((d + k) % n) (be32 (s.reg rs3).toNat) m = .error c →
          ∃ t, exec i s = .next t ∧ FailsWith .domain s t) ∧
        ∀ sig, bip340Sign ((d + k) % n) (be32 (s.reg rs3).toNat) m = .ok sig →
          ∃ t, exec i s = .next t ∧ PutsBuf s t sig ∧ t.res = s.res))

/-- R232 and R233, for both forms in every state: the length checks; RESULT = 0 when the tweak fails; else BIP340 verification under the output key that
TAP.TWEAK writes. -/
def Obligations.TapVerifyVerifies : Prop :=
  ∀ (rd rs1 rs2 : Reg) (s : State) (i j : Instr) (m sig : List Byte),
    (i = .tapVerify rs1 rs2 ∧ j = .tapTweak rd rs1 rs2 ∨ i = .tapVerifyN rs1 ∧ j = .tapTweakN rd rs1) →
    m = (List.range s.msglen.toNat).map (fun k => s.mem.read (0x800 + k)) →
    sig = (List.range 64).map (fun k => s.mem.read (0x100 + k)) →
    EncodedAs (.tapVerify rs1 rs2) 0x58 0 0 rs1 rs2 0 ∧ EncodedAs (.tapVerifyN rs1) 0x58 1 0 rs1 0 0 ∧
    (128 < s.buflen.toNat ∨ 1024 < s.msglen.toNat → ∃ t, exec i s = .next t ∧ FailsWith .size s t) ∧
    (s.buflen.toNat ≤ 128 → s.msglen.toNat ≤ 1024 → s.buflen.toNat ≠ 64 →
      ∃ t, exec i s = .next t ∧ FailsWith .length s t) ∧
    (s.buflen.toNat = 64 → s.msglen.toNat ≤ 1024 →
      ∃ u t, exec j s = .next u ∧ exec i s = .next t ∧
        WritesRes s t (if u.err then false else bip340Verify (u.reg rd).toNat m sig))

/-- R234: for every secret, root, aux_rand and message that TAP.SIGN (TAP.SIGNN) accepts, TAP.VERIFY (TAP.VERIFYN) with the
x-only key of the secret gives 1. -/
def Obligations.TapSignThenVerify : Prop :=
  ∀ (r1 r2 r3 rx : Reg) (s t : State) (i j : Instr), s.busy = true → s.mem.wf →
    (i = .tapSign r1 r2 r3 ∧ j = .tapVerify rx r2 ∨ i = .tapSignN r1 r3 ∧ j = .tapVerifyN rx) →
    exec i s = .next t → t.err = false → (t.reg rx).toNat = (mulGPoint (s.reg r1).toNat).1.val →
    ∃ u, exec j t = .next u ∧ WritesRes t u true

/-! ## Hash to curve (46_hash_to_curve.md) -/

/-- R264 and R265: the simplified SWU map, a point of E′ with the x that the rule selects and the parity of u, and the isogeny
E′ → E, with its exceptional case. -/
def Obligations.SswuAndIsogenyMapPoints : Prop :=
  let A : Fp := toFp 0x3F8731ABDD661ADCA08A5558F0F5D272E953D363CB6F0E5D405447C01A444533
  (∀ u tv x1 x2 : Fp, tv = -11 * -11 * (u * u * (u * u)) + -11 * (u * u) →
    (tv ≠ 0 → x1 * (A * tv) = -(1771 * (1 + tv))) → (tv = 0 → x1 * (-11 * A) = 1771) → x2 = -11 * (u * u) * x1 →
    ∃ x y, sswu u = (x, y) ∧ y * y = x * x * x + A * x + 1771 ∧ (y ≠ 0 → y.val % 2 = u.val % 2) ∧
      ((∃ r, r * r = x1 * x1 * x1 + A * x1 + 1771) → x = x1) ∧
      ((¬∃ r, r * r = x1 * x1 * x1 + A * x1 + 1771) → x = x2)) ∧
  ∀ x y xn xd yn yd : Fp,
    xn = toFp 0x8E38E38E38E38E38E38E38E38E38E38E38E38E38E38E38E38E38E38DAAAAA88C * (x * x * x) +
      toFp 0x534C328D23F234E6E2A413DECA25CAECE4506144037C40314ECBD0B53D9DD262 * (x * x) +
      toFp 0x07D3D4C80BC321D5B9F315CEA7FD44C5D595D2FC0BF63B92DFFF1044F17C6581 * x +
      toFp 0x8E38E38E38E38E38E38E38E38E38E38E38E38E38E38E38E38E38E38DAAAAA8C7 →
    xd = x * x + toFp 0xEDADC6F64383DC1DF7C4B2D51B54225406D36B641F5E41BBC52A56612A8C6D14 * x +
      toFp 0xD35771193D94918A9CA34CCBB7B640DD86CD409542F8487D9FE6B745781EB49B →
    yn = toFp 0x2F684BDA12F684BDA12F684BDA12F684BDA12F684BDA12F684BDA12F38E38D84 * (x * x * x) +
      toFp 0x29A6194691F91A73715209EF6512E576722830A201BE2018A765E85A9ECEE931 * (x * x) +
      toFp 0xC75E0C32D5CB7C0FA9D0A54B12A0A6D5647AB046D686DA6FDFFC90FC201D71A3 * x +
      toFp 0x4BDA12F684BDA12F684BDA12F684BDA12F684BDA12F684BDA12F684B8E38E23C →
    yd = x * x * x + toFp 0x6484AA716545CA2CF3A70C3FA8FE337E0A3D21162F0D6299A7BF8192BFD2A76F * (x * x) +
      toFp 0x7A06534BB8BDB49FD5E9E6632722C2989467C1BFC8E8D978DFB425D2685C2573 * x +
      toFp 0xFFFFFFFFFFFFFFFFFFFFFFFFFFFFFFFFFFFFFFFFFFFFFFFFFFFFFFFEFFFFF93B →
    (xd = 0 ∨ yd = 0 → isoMap (x, y) = none) ∧
    (xd ≠ 0 → yd ≠ 0 → ∃ X Y, isoMap (x, y) = some (X, Y) ∧ X * xd = xn ∧ Y * yd = y * yn ∧
      (y * y = x * x * x + A * x + 1771 → Y * Y = X * X * X + 7))

/-- R261, R262 and R263: SIZE, LENGTH, and the pipeline of H2C. -/
def Obligations.H2cHashesToCurve : Prop :=
  ∀ (rd : Reg) (s : State) (msg dst b0 b1 b2 b3 : List Byte),
    msg = (List.range s.msglen.toNat).map (fun k => s.mem.read (0x800 + k)) →
    dst = (List.range s.dstlen.toNat).map (fun k => s.mem.read (0x200 + k)) ++ [s.dstlen] →
    b0 = sha256 (List.replicate 64 0 ++ msg ++ [0x00, 0x60, 0x00] ++ dst) →
    b1 = sha256 (b0 ++ [0x01] ++ dst) →
    b2 = sha256 (List.zipWith (· ^^^ ·) b0 b1 ++ [0x02] ++ dst) →
    b3 = sha256 (List.zipWith (· ^^^ ·) b0 b2 ++ [0x03] ++ dst) →
    EncodedAs (.h2c rd) 0x60 0 rd 0 0 0 ∧
    (1024 < s.msglen.toNat → ∃ t, exec (.h2c rd) s = .next t ∧ FailsWith .size s t) ∧
    (s.msglen.toNat ≤ 1024 → s.dstlen = 0 → ∃ t, exec (.h2c rd) s = .next t ∧ FailsWith .length s t) ∧
    (s.msglen.toNat ≤ 1024 → s.dstlen ≠ 0 →
      ∃ T t, exec (.h2c rd) s = .next t ∧ WritesTriple s t rd T ∧ Normalised T ∧
        T = normal (paddF
          (ofAffine (isoMap (sswu (toFp (os2ip (((b1 ++ b2 ++ b3).take 48)))))))
          (ofAffine (isoMap (sswu (toFp (os2ip ((b1 ++ b2 ++ b3).drop 48))))))))

/-- R267: the result of H2C is INF or lies on the curve. -/
def Obligations.H2cResultOnCurve : Prop :=
  ∀ (rd : Reg) (s t : State), s.busy = true → exec (.h2c rd) s = .next t → t.err = false → OnCurveOrInf (t.triple rd)

/-! ## Reset (10_state.md R55, 70_reset_and_hazards.md) -/

/-- R55, R310, R311 and R312: right after reset every piece of the block's state has its value of R55, and a hardware reset
and a write of CTRL with SRST = 1 give it that value again, whether or not a command is in flight. -/
def Obligations.ResetsGiveEveryResetValue : Prop :=
  AtReset State.reset.toBlock ∧
  ∀ s : State,
    ((∃ rest, s.script = .hardReset :: rest) → ∃ t, step s = .next t ∧ AtReset t.toBlock ∧ t.toBlock = State.reset.toBlock) ∧
    ∀ w : Word, w.getLsbD 1 = true → HostNext s (.write 0x004 w) →
      ∃ t, step s = .next t ∧ AtReset t.toBlock ∧ t.toBlock = State.reset.toBlock

/-! ## The window (20_memory.md, 10_state.md) -/

/-- Reads of the control and status registers (R40 to R47, R74): their values at all times, and no side effect on the block. -/
def Obligations.ControlReads : Prop :=
  ∀ (s : State) (o : Offset), HostNext s (.read o) → o.toNat < 0x024 → o.toNat % 4 = 0 →
    ∃ w t, step s = .next t ∧ t.toBlock = s.toBlock ∧ t.reply = .word w ∧
      (o = 0x000 → w = 0x54534307) ∧
      (o = 0x004 → w.toNat = s.ie.toNat) ∧
      (o = 0x008 → w.toNat =
        s.busy.toNat + 2 * s.done.toNat + 4 * s.err.toNat + 8 * s.ovr.toNat + 16 * s.wbusy.toNat) ∧
      (o = 0x00C → w = s.cmdlast) ∧
      (o = 0x010 → w.toNat = s.errcode.toNat) ∧
      (o = 0x014 → w.toNat = s.res.toNat) ∧
      (o = 0x018 → w.toNat = s.buflen.toNat) ∧
      (o = 0x01C → w.toNat = s.msglen.toNat) ∧
      (o = 0x020 → w.toNat = s.dstlen.toNat)

/-- Reads of the byte regions while BUSY = 0 (R72, R74, R76, R77, R78): byte k of the word is the byte at offset o + k, and a
register's word q holds bits [255 − 32q : 224 − 32q] with its bytes exchanged. -/
def Obligations.DataReads : Prop :=
  ∀ (s : State) (o : Offset), HostNext s (.read o) → s.busy = false → o.toNat % 4 = 0 →
    ∃ w t, step s = .next t ∧ t.toBlock = s.toBlock ∧ t.reply = .word w ∧
      (0x100 ≤ o.toNat ∧ o.toNat < 0x180 ∨ 0x200 ≤ o.toNat ∧ o.toNat < 0x2FC ∨ 0x800 ≤ o.toNat ∧ o.toNat < 0xC00 →
        ∀ k, k < 4 → w.extractLsb' (8 * k) 8 = s.mem.read (o.toNat + k)) ∧
      (o = 0x2FC → (∀ k, k < 3 → w.extractLsb' (8 * k) 8 = s.mem.read (0x2FC + k)) ∧ w.extractLsb' 24 8 = 0) ∧
      ∀ (i : Reg) (q k : Nat), q < 8 → k < 4 → o.toNat = 0x400 + 32 * i.val + 4 * q →
        w.extractLsb' (8 * k) 8 = (s.reg i).extractLsb' (224 - 32 * q + 8 * (3 - k)) 8

/-- Writes of the data words and length registers while BUSY = 0 (R75, R77): what each sets, and that nothing else changes. -/
def Obligations.DataWrites : Prop :=
  ∀ (s : State) (o : Offset) (w : Word), HostNext s (.write o w) → s.busy = false → s.mem.wf → o.toNat % 4 = 0 →
    ∃ t, step s = .next t ∧
      (0x100 ≤ o.toNat ∧ o.toNat < 0x180 ∨ 0x200 ≤ o.toNat ∧ o.toNat < 0x300 ∨ 0x800 ≤ o.toNat ∧ o.toNat < 0xC00 →
        (∀ k, k < 4 → o.toNat + k ≠ 0x2FF → t.mem.read (o.toNat + k) = w.extractLsb' (8 * k) 8) ∧
        (∀ a, ¬(o.toNat ≤ a ∧ a < o.toNat + 4) → t.mem.read a = s.mem.read a) ∧
        { t.toBlock with mem := s.mem } = s.toBlock) ∧
      (∀ (i : Reg) (q : Nat), q < 8 → o.toNat = 0x400 + 32 * i.val + 4 * q →
        (∀ k, k < 4 → (t.reg i).extractLsb' (224 - 32 * q + 8 * (3 - k)) 8 = w.extractLsb' (8 * k) 8) ∧
        (∀ j, j < 32 → ¬(4 * q ≤ j ∧ j < 4 * q + 4) →
          (t.reg i).extractLsb' (8 * (31 - j)) 8 = (s.reg i).extractLsb' (8 * (31 - j)) 8) ∧
        (∀ j, j ≠ i → t.reg j = s.reg j) ∧ { t.toBlock with regs := s.regs } = s.toBlock) ∧
      (o = 0x018 → t.toBlock = { s.toBlock with buflen := w.extractLsb' 0 8 }) ∧
      (o = 0x01C → t.toBlock = { s.toBlock with msglen := w.extractLsb' 0 16 }) ∧
      (o = 0x020 → t.toBlock = { s.toBlock with dstlen := w.extractLsb' 0 8 }) ∧
      (o = 0x000 ∨ o = 0x010 ∨ o = 0x014 → t.toBlock = s.toBlock)

/-- R73: every access that is not an aligned 32-bit one gets a bus error and changes nothing. -/
def Obligations.OtherAccessesGetBusErrors : Prop :=
  ∀ (s : State) (m : HostMove), HostNext s m →
    ((∃ width o, m = .other width o) ∨ (∃ o, m = .read o ∧ o.toNat % 4 ≠ 0) ∨
      (∃ o w, m = .write o w ∧ o.toNat % 4 ≠ 0)) →
    step s = .next { s.past with reply := .busError }

/-- R80: what a write does while BUSY = 1; a write of ID, ERRCODE or RESULT does nothing (R40, R75). -/
def Obligations.WritesWhileBusy : Prop :=
  ∀ (s : State) (o : Offset) (w : Word), HostNext s (.write o w) → s.busy = true → o.toNat % 4 = 0 →
    ∃ t, step s = .next t ∧
      (0x018 ≤ o.toNat ∧ o.toNat < 0x024 ∨ 0x100 ≤ o.toNat ∧ o.toNat < 0x180 ∨ 0x200 ≤ o.toNat ∧ o.toNat < 0x300 ∨
          0x400 ≤ o.toNat ∧ o.toNat < 0xC00 →
        t.toBlock = { s.toBlock with wbusy := true }) ∧
      (o = 0x00C → t.toBlock = { s.toBlock with ovr := true }) ∧
      (o = 0x000 ∨ o = 0x010 ∨ o = 0x014 → t.toBlock = s.toBlock) ∧
      (o = 0x004 → w.getLsbD 1 = false → t.toBlock = { s.toBlock with ie := w.getLsbD 0 }) ∧
      (o = 0x004 → w.getLsbD 1 = true → t.toBlock = State.reset.toBlock) ∧
      (o = 0x008 → t.toBlock = { s.toBlock with
        done := s.done && !w.getLsbD 1
        err := s.err && !w.getLsbD 2
        ovr := s.ovr && !w.getLsbD 3
        wbusy := s.wbusy && !w.getLsbD 4 })

/-- R81, with the reserved lane of R82 (log 4): a read of a data word while BUSY = 1 answers a free value and has no side
effect on the block; each such read takes its own value. -/
def Obligations.ReadsWhileBusy : Prop :=
  ∀ (s : State) (o : Offset), HostNext s (.read o) → s.busy = true → o.toNat % 4 = 0 →
    0x100 ≤ o.toNat ∧ o.toNat < 0x180 ∨ 0x200 ≤ o.toNat ∧ o.toNat < 0x300 ∨ 0x400 ≤ o.toNat ∧ o.toNat < 0xC00 →
    ∃ w t, step s = .next t ∧ t.toBlock = s.toBlock ∧ t.reply = .word w ∧ t.busyReads = s.busyReads + 1 ∧
      (o ≠ 0x2FC → w = Config.busyRead s.busyReads) ∧
      (o = 0x2FC → ∀ b, b < 32 → w.getLsbD b = (decide (b < 24) && (Config.busyRead s.busyReads).getLsbD b))

/-- R82: a reserved offset reads 0 and ignores writes at all times, without a bus error and without WBUSY, and so does the
reserved byte lane 0x2FF; that the lane reads 0 also while BUSY = 1, where R81 gives any value, is the model's reading (log 4). -/
def Obligations.ReservedOffsets : Prop :=
  ∀ (s : State) (o : Offset), o.toNat % 4 = 0 →
    (0x024 ≤ o.toNat ∧ o.toNat < 0x100 ∨ 0x180 ≤ o.toNat ∧ o.toNat < 0x200 ∨ 0x300 ≤ o.toNat ∧ o.toNat < 0x400 ∨
        0xC00 ≤ o.toNat →
      (HostNext s (.read o) → step s = .next { s.past with reply := .word 0 }) ∧
      ∀ w, HostNext s (.write o w) → step s = .next { s.past with reply := .nothing }) ∧
    (o = 0x2FC →
      (HostNext s (.read o) → ∃ w t, step s = .next t ∧ t.reply = .word w ∧ w.extractLsb' 24 8 = 0) ∧
      ∀ w, HostNext s (.write o w) → ∃ t, step s = .next t ∧
        step { s with script := .host (.write o (w &&& 0x00FFFFFF)) :: s.script.tail } = .next t)

/-- R43's W1C bits, and R53 and R292: the interrupt output is CTRL.IE and STATUS.DONE, it falls when DONE is cleared, and a CTRL
write sets the enable. -/
def Obligations.StatusAndInterrupt : Prop :=
  ∀ s : State,
    (HostNext s .observeIrq → step s = .next { s.past with reply := .irq (s.ie && s.done) }) ∧
    (∀ w, HostNext s (.write 0x008 w) → ∃ t, step s = .next t ∧
      t.toBlock = { s.toBlock with
        done := s.done && !w.getLsbD 1
        err := s.err && !w.getLsbD 2
        ovr := s.ovr && !w.getLsbD 3
        wbusy := s.wbusy && !w.getLsbD 4 } ∧
      (w.getLsbD 1 = true → t.irq = false)) ∧
    (∀ w, w.getLsbD 1 = false → HostNext s (.write 0x004 w) → ∃ t, step s = .next t ∧
      t.toBlock = { s.toBlock with ie := w.getLsbD 0 } ∧ t.irq = (w.getLsbD 0 && s.done)) ∧
    ∀ t, s.busy = true → step s = .next t → t.busy = false → t.done = true → t.irq = s.ie

/-! ## The whole machine -/

/-- The invariant holds right after reset. -/
def Obligations.ResetMeetsInvariant : Prop := Inv State.reset.toBlock

/-- Every step keeps the invariant: the canonical memory, a code of R281 in ERRCODE, and DONE, ERR and ERRCODE clear while a
command is in flight. -/
def Obligations.StepKeepsInvariant : Prop :=
  ∀ s t : State, Inv s.toBlock → step s = .next t → Inv t.toBlock

/-- R313: only a completion or a reset ends a command in flight. Until then no step changes the command or the data it works on
(R80, R123); the draws that a rejection loop has taken are the model's own (log 2). -/
def Obligations.OnlyCompletionOrResetEndsCommand : Prop :=
  ∀ s t : State, s.busy = true → step s = .next t →
    (EngineNext s ∧ t.busy = false ∧ t.done = true) ∨
    (((∃ rest, s.script = .hardReset :: rest) ∨ ∃ w, w.getLsbD 1 = true ∧ HostNext s (.write 0x004 w)) ∧
      t.toBlock = State.reset.toBlock) ∨
    (t.busy = true ∧ t.cmdlast = s.cmdlast ∧ t.errcode = s.errcode ∧ SameData s.toBlock t.toBlock)

/-- R333 (a), in the model's form (log 1): a word in flight that is no drawing command, an illegal word among them (R106, R128),
is no longer in flight after at most one step more than there are events ahead. -/
def Obligations.InFlightCommandEnds : Prop :=
  ∀ s : State, s.busy = true → (∀ i, decode s.cmdlast = .ok i → draws i = false) →
    ∃ (k : Nat) (t : State), k ≤ s.script.length + 1 ∧ Sys2Proof.core.run k s = .next t ∧ t.busy = false
end

