-- ==== Sys2Proof/Laws/Decode.lean ====
section
/-!
SUPPORT. Sys2Proof/Laws/Decode.lean: the fields of a packed word are the fields it was packed from (R100, R109).
-/

namespace Sys2Proof

/-- Bits of an append that lie in its low part. -/
theorem extract_low {m k : Nat} (x : BitVec m) (y : BitVec k) (i l : Nat) (h : i + l ≤ k) :
    (x ++ y).extractLsb' i l = y.extractLsb' i l := by
  ext j hj
  simp only [BitVec.getElem_extractLsb', BitVec.getLsbD_append]
  rw [if_pos (by omega)]

/-- Bits of an append that lie in its high part. -/
theorem extract_high {m k : Nat} (x : BitVec m) (y : BitVec k) (i l : Nat) :
    (x ++ y).extractLsb' (k + i) l = x.extractLsb' i l := by
  ext j hj
  simp only [BitVec.getElem_extractLsb', BitVec.getLsbD_append]
  rw [if_neg (by omega), show k + i + j - k = i + j by omega]

theorem extract_all {m : Nat} (x : BitVec m) : x.extractLsb' 0 m = x := by simp

/-- Two fields of a word that touch are one field. -/
theorem extract_adjacent {m : Nat} (x : BitVec m) (i k l : Nat) :
    x.extractLsb' (i + k) l ++ x.extractLsb' i k = x.extractLsb' i (l + k) := by
  ext j hj
  simp only [BitVec.getElem_append, BitVec.getElem_extractLsb']
  split
  · rfl
  · congr 1; omega

section
variable (m : BitVec 4) (c b a d : BitVec 5) (o : BitVec 8)

/-- The six fields of R100, each by its place in the word. -/
theorem extract_cmd32 :
    (m ++ c ++ b ++ a ++ d ++ o).extractLsb' 0 8 = o ∧ (m ++ c ++ b ++ a ++ d ++ o).extractLsb' 8 5 = d ∧
    (m ++ c ++ b ++ a ++ d ++ o).extractLsb' 13 5 = a ∧ (m ++ c ++ b ++ a ++ d ++ o).extractLsb' 18 5 = b ∧
    (m ++ c ++ b ++ a ++ d ++ o).extractLsb' 23 5 = c ∧ (m ++ c ++ b ++ a ++ d ++ o).extractLsb' 28 4 = m := by
  refine ⟨?_, ?_, ?_, ?_, ?_, ?_⟩
  · exact (extract_low _ o 0 8 (by omega)).trans (extract_all o)
  · exact (extract_high _ o 0 5).trans ((extract_low _ d 0 5 (by omega)).trans (extract_all d))
  · exact (extract_high _ o 5 5).trans ((extract_high _ d 0 5).trans
      ((extract_low _ a 0 5 (by omega)).trans (extract_all a)))
  · exact (extract_high _ o 10 5).trans ((extract_high _ d 5 5).trans
      ((extract_high _ a 0 5).trans ((extract_low _ b 0 5 (by omega)).trans (extract_all b))))
  · exact (extract_high _ o 15 5).trans ((extract_high _ d 10 5).trans
      ((extract_high _ a 5 5).trans ((extract_high _ b 0 5).trans
        ((extract_low _ c 0 5 (by omega)).trans (extract_all c)))))
  · exact (extract_high _ o 20 4).trans ((extract_high _ d 15 4).trans
      ((extract_high _ a 10 4).trans ((extract_high _ b 5 4).trans
        ((extract_high m c 0 4).trans (extract_all m)))))
end

@[simp] theorem opcOf_pack (opc : BitVec 8) (mode : BitVec 4) (rd rs1 rs2 rs3 : Reg) :
    opcOf (pack opc mode rd rs1 rs2 rs3) = opc := (extract_cmd32 ..).1

@[simp] theorem rdOf_pack (opc : BitVec 8) (mode : BitVec 4) (rd rs1 rs2 rs3 : Reg) :
    rdOf (pack opc mode rd rs1 rs2 rs3) = rd :=
  congrArg BitVec.toFin (extract_cmd32 mode ⟨rs3⟩ ⟨rs2⟩ ⟨rs1⟩ ⟨rd⟩ opc).2.1

@[simp] theorem rs1Of_pack (opc : BitVec 8) (mode : BitVec 4) (rd rs1 rs2 rs3 : Reg) :
    rs1Of (pack opc mode rd rs1 rs2 rs3) = rs1 :=
  congrArg BitVec.toFin (extract_cmd32 mode ⟨rs3⟩ ⟨rs2⟩ ⟨rs1⟩ ⟨rd⟩ opc).2.2.1

@[simp] theorem rs2Of_pack (opc : BitVec 8) (mode : BitVec 4) (rd rs1 rs2 rs3 : Reg) :
    rs2Of (pack opc mode rd rs1 rs2 rs3) = rs2 :=
  congrArg BitVec.toFin (extract_cmd32 mode ⟨rs3⟩ ⟨rs2⟩ ⟨rs1⟩ ⟨rd⟩ opc).2.2.2.1

@[simp] theorem rs3Of_pack (opc : BitVec 8) (mode : BitVec 4) (rd rs1 rs2 rs3 : Reg) :
    rs3Of (pack opc mode rd rs1 rs2 rs3) = rs3 :=
  congrArg BitVec.toFin (extract_cmd32 mode ⟨rs3⟩ ⟨rs2⟩ ⟨rs1⟩ ⟨rd⟩ opc).2.2.2.2.1

@[simp] theorem modeOf_pack (opc : BitVec 8) (mode : BitVec 4) (rd rs1 rs2 rs3 : Reg) :
    modeOf (pack opc mode rd rs1 rs2 rs3) = mode := (extract_cmd32 ..).2.2.2.2.2

@[simp] theorem fieldsOf_pack (opc : BitVec 8) (mode : BitVec 4) (rd rs1 rs2 rs3 : Reg) :
    fieldsOf (pack opc mode rd rs1 rs2 rs3) = ⟨rd, rs1, rs2, rs3⟩ := by
  simp [fieldsOf]

/-- A word is the packing of its own fields: no bit lies outside them (R100). -/
theorem pack_fields (w : Word) : pack (opcOf w) (modeOf w) (rdOf w) (rs1Of w) (rs2Of w) (rs3Of w) = w := by
  show w.extractLsb' (23 + 5) 4 ++ w.extractLsb' 23 5 ++ w.extractLsb' 18 5 ++ w.extractLsb' 13 5 ++ w.extractLsb' 8 5 ++
    w.extractLsb' 0 8 = w
  rw [extract_adjacent w 23 5 4]
  show w.extractLsb' (18 + 5) 9 ++ w.extractLsb' 18 5 ++ w.extractLsb' 13 5 ++ w.extractLsb' 8 5 ++ w.extractLsb' 0 8 = w
  rw [extract_adjacent w 18 5 9]
  show w.extractLsb' (13 + 5) 14 ++ w.extractLsb' 13 5 ++ w.extractLsb' 8 5 ++ w.extractLsb' 0 8 = w
  rw [extract_adjacent w 13 5 14]
  show w.extractLsb' (8 + 5) 19 ++ w.extractLsb' 8 5 ++ w.extractLsb' 0 8 = w
  rw [extract_adjacent w 8 5 19]
  show w.extractLsb' (0 + 8) 24 ++ w.extractLsb' 0 8 = w
  rw [extract_adjacent w 0 8 24]
  exact extract_all w

/-- Two rows with one opcode and one mode are one place of the table (R106). -/
theorem rows_keys_distinct : rows.Pairwise (fun r q => ¬(r.opc = q.opc ∧ r.mode = q.mode)) := by decide

end Sys2Proof
end

