-- ==== Sys2Proof/Laws/Prime.lean ====
section
/-!
SUPPORT. Sys2Proof/Laws/Prime.lean: the square-and-multiply loop computes the power, and the moduli p and n are prime
(R49, stated there from general knowledge). The certificates are Lucas primality with the factors of m − 1.
-/

namespace Sys2Proof.Machine

/-- The loop of R145 turns r into r^(2^i)·b^(e mod 2^i). -/
theorem modPowLoop_eq (b e m i r : Nat) (hr : r % m = r) :
    modPowLoop b e m i r = r ^ 2 ^ i * b ^ (e % 2 ^ i) % m := by
  induction i generalizing r with
  | zero => simp [modPowLoop, Nat.mod_one, hr]
  | succ i ih =>
    have hbit : e % 2 ^ (i + 1) = e % 2 ^ i + 2 ^ i * (if e.testBit i then 1 else 0) := by
      rw [Nat.mod_pow_succ, Nat.testBit_eq_decide_div_mod_eq]
      rcases Nat.mod_two_eq_zero_or_one (e / 2 ^ i) with h | h <;> simp [h]
    simp only [modPowLoop]
    rw [ih _ (by split <;> simp)]
    have hsq : (r * r % m) ^ 2 ^ i ≡ r ^ 2 ^ (i + 1) [MOD m] := by
      have h := (Nat.mod_modEq (r * r) m).pow (2 ^ i)
      rwa [← pow_two r, ← pow_mul, mul_comm 2, ← pow_succ, pow_two r] at h
    cases h : e.testBit i with
    | false =>
      simp only [h, Bool.false_eq_true, if_false] at hbit ⊢
      rw [hbit, mul_zero, add_zero]
      exact hsq.mul_right _
    | true =>
      simp only [h, if_true] at hbit ⊢
      rw [hbit, mul_one, pow_add b, mul_comm (b ^ (e % 2 ^ i)), ← mul_assoc]
      refine Nat.ModEq.mul_right _ ?_
      have := (Nat.mod_modEq (r * r % m * b) m).pow (2 ^ i)
      rw [mul_pow] at this
      exact this.trans (hsq.mul_right _)

/-- A base, and the prime factors of m − 1, that certify that m is prime. -/
theorem prime_of_factors (m a : Nat) (fs : List Nat) (hm : 1 < m) (hb : m - 1 < 2 ^ 256) (hfs : ∀ q ∈ fs, q.Prime)
    (hprod : fs.prod = m - 1 ∧ modPow a (m - 1) m = 1) (hne : fs.all (fun q => modPow a ((m - 1) / q) m != 1) = true) :
    m.Prime := by
  have hpow (e : Nat) (he : e < 2 ^ 256) : modPow a e m = a ^ e % m := by
    rw [modPow, modPowLoop_eq _ _ _ _ _ (Nat.mod_mod ..), Nat.mod_eq_of_lt hm, one_pow, one_mul, Nat.mod_eq_of_lt he]
  have hz (e : Nat) (he : e < 2 ^ 256) : (a : ZMod m) ^ e = 1 ↔ modPow a e m = 1 := by
    rw [hpow e he, ← Nat.cast_pow, ← Nat.cast_one, ZMod.natCast_eq_natCast_iff, Nat.ModEq, Nat.mod_eq_of_lt hm]
  refine lucas_primality m a ((hz _ hb).mpr hprod.2) fun q hq hd => ?_
  rw [← hprod.1] at hd
  obtain ⟨f, hf, hqf⟩ := (Nat.Prime.prime hq).dvd_prod_iff.mp hd
  rw [(Nat.prime_dvd_prime_iff_eq hq (hfs f hf)).mp hqf, Ne, hz _ (lt_of_le_of_lt (Nat.div_le_self ..) hb)]
  simpa using List.all_eq_true.mp hne f hf

theorem prime_297159362677 : Nat.Prime 297159362677 := by
  refine prime_of_factors 297159362677 2 [2, 2, 3, 3, 11, 461, 1627771] (by decide +kernel) (by decide +kernel) ?_ (by decide +kernel) (by decide +kernel)
  simp only [List.forall_mem_cons, List.not_mem_nil, false_imp_iff, implies_true, and_true]
  exact ⟨by norm_num, by norm_num, by norm_num, by norm_num, by norm_num, by norm_num, by norm_num⟩

theorem prime_545358713 : Nat.Prime 545358713 := by
  refine prime_of_factors 545358713 5 [2, 2, 2, 41, 59, 28181] (by decide +kernel) (by decide +kernel) ?_ (by decide +kernel) (by decide +kernel)
  simp only [List.forall_mem_cons, List.not_mem_nil, false_imp_iff, implies_true, and_true]
  exact ⟨by norm_num, by norm_num, by norm_num, by norm_num, by norm_num, by norm_num⟩

theorem prime_29047611873442575647497758179 : Nat.Prime 29047611873442575647497758179 := by
  refine prime_of_factors 29047611873442575647497758179 2 [2, 293, 305873, 545358713, 297159362677] (by decide +kernel) (by decide +kernel) ?_ (by decide +kernel) (by decide +kernel)
  simp only [List.forall_mem_cons, List.not_mem_nil, false_imp_iff, implies_true, and_true]
  exact ⟨by norm_num, by norm_num, by norm_num, prime_545358713, prime_297159362677⟩

theorem prime_341948486974166000522343609283189 : Nat.Prime 341948486974166000522343609283189 := by
  refine prime_of_factors 341948486974166000522343609283189 2 [2, 2, 3, 3, 3, 109, 29047611873442575647497758179] (by decide +kernel) (by decide +kernel) ?_ (by decide +kernel) (by decide +kernel)
  simp only [List.forall_mem_cons, List.not_mem_nil, false_imp_iff, implies_true, and_true]
  exact ⟨by norm_num, by norm_num, by norm_num, by norm_num, by norm_num, by norm_num, prime_29047611873442575647497758179⟩

theorem prime_107361793816595537 : Nat.Prime 107361793816595537 := by
  refine prime_of_factors 107361793816595537 3 [2, 2, 2, 2, 16699, 85831, 4681609] (by decide +kernel) (by decide +kernel) ?_ (by decide +kernel) (by decide +kernel)
  simp only [List.forall_mem_cons, List.not_mem_nil, false_imp_iff, implies_true, and_true]
  exact ⟨by norm_num, by norm_num, by norm_num, by norm_num, by norm_num, by norm_num, by norm_num⟩

theorem prime_174723607534414371449 : Nat.Prime 174723607534414371449 := by
  refine prime_of_factors 174723607534414371449 3 [2, 2, 2, 17, 59, 4051, 120233, 44706919] (by decide +kernel) (by decide +kernel) ?_ (by decide +kernel) (by decide +kernel)
  simp only [List.forall_mem_cons, List.not_mem_nil, false_imp_iff, implies_true, and_true]
  exact ⟨by norm_num, by norm_num, by norm_num, by norm_num, by norm_num, by norm_num, by norm_num, by norm_num⟩

theorem prime_n : Nat.Prime n := by
  refine prime_of_factors n 7 [2, 2, 2, 2, 2, 2, 3, 149, 631, 107361793816595537, 174723607534414371449, 341948486974166000522343609283189] (by decide +kernel) (by decide +kernel) ?_ (by decide +kernel) (by decide +kernel)
  simp only [List.forall_mem_cons, List.not_mem_nil, false_imp_iff, implies_true, and_true]
  exact ⟨by norm_num, by norm_num, by norm_num, by norm_num, by norm_num, by norm_num, by norm_num, by norm_num, by norm_num, prime_107361793816595537, prime_174723607534414371449, prime_341948486974166000522343609283189⟩

theorem prime_173378833005251801 : Nat.Prime 173378833005251801 := by
  refine prime_of_factors 173378833005251801 6 [2, 2, 2, 5, 5, 2621, 24809, 13331831] (by decide +kernel) (by decide +kernel) ?_ (by decide +kernel) (by decide +kernel)
  simp only [List.forall_mem_cons, List.not_mem_nil, false_imp_iff, implies_true, and_true]
  exact ⟨by norm_num, by norm_num, by norm_num, by norm_num, by norm_num, by norm_num, by norm_num, by norm_num⟩

theorem prime_22149492674086928081353 : Nat.Prime 22149492674086928081353 := by
  refine prime_of_factors 22149492674086928081353 5 [2, 2, 2, 3, 5323, 173378833005251801] (by decide +kernel) (by decide +kernel) ?_ (by decide +kernel) (by decide +kernel)
  simp only [List.forall_mem_cons, List.not_mem_nil, false_imp_iff, implies_true, and_true]
  exact ⟨by norm_num, by norm_num, by norm_num, by norm_num, by norm_num, prime_173378833005251801⟩

theorem prime_132896956044521568488119 : Nat.Prime 132896956044521568488119 := by
  refine prime_of_factors 132896956044521568488119 6 [2, 3, 22149492674086928081353] (by decide +kernel) (by decide +kernel) ?_ (by decide +kernel) (by decide +kernel)
  simp only [List.forall_mem_cons, List.not_mem_nil, false_imp_iff, implies_true, and_true]
  exact ⟨by norm_num, by norm_num, prime_22149492674086928081353⟩

theorem prime_255515944373312847190720520512484175977 : Nat.Prime 255515944373312847190720520512484175977 := by
  refine prime_of_factors 255515944373312847190720520512484175977 3 [2, 2, 2, 7, 7, 11, 1627, 2657, 4423, 41201, 96557, 7240687, 107590001] (by decide +kernel) (by decide +kernel) ?_ (by decide +kernel) (by decide +kernel)
  simp only [List.forall_mem_cons, List.not_mem_nil, false_imp_iff, implies_true, and_true]
  exact ⟨by norm_num, by norm_num, by norm_num, by norm_num, by norm_num, by norm_num, by norm_num, by norm_num, by norm_num, by norm_num, by norm_num, by norm_num, by norm_num⟩

theorem prime_205115282021455665897114700593932402728804164701536103180137503955397371 : Nat.Prime 205115282021455665897114700593932402728804164701536103180137503955397371 := by
  refine prime_of_factors 205115282021455665897114700593932402728804164701536103180137503955397371 10 [2, 3, 5, 29, 29, 31, 7723, 132896956044521568488119, 255515944373312847190720520512484175977] (by decide +kernel) (by decide +kernel) ?_ (by decide +kernel) (by decide +kernel)
  simp only [List.forall_mem_cons, List.not_mem_nil, false_imp_iff, implies_true, and_true]
  exact ⟨by norm_num, by norm_num, by norm_num, by norm_num, by norm_num, by norm_num, by norm_num, prime_132896956044521568488119, prime_255515944373312847190720520512484175977⟩

theorem prime_p : Nat.Prime p := by
  refine prime_of_factors p 3 [2, 3, 7, 13441, 205115282021455665897114700593932402728804164701536103180137503955397371] (by decide +kernel) (by decide +kernel) ?_ (by decide +kernel) (by decide +kernel)
  simp only [List.forall_mem_cons, List.not_mem_nil, false_imp_iff, implies_true, and_true]
  exact ⟨by norm_num, by norm_num, by norm_num, by norm_num, prime_205115282021455665897114700593932402728804164701536103180137503955397371⟩

end Sys2Proof.Machine
end

