-- ==== Sys2Proof/Laws/Field.lean ====
section
/-!
SUPPORT. Sys2Proof/Laws/Field.lean: the model's coordinates are Mathlib's GF(p), operation by operation, and `invP` is its
inverse.
-/

namespace Sys2Proof.Machine

theorem toZ_inj (a b : Fp) : toZ a = toZ b ↔ a = b := by
  rw [toZ, toZ, ZMod.natCast_eq_natCast_iff, Nat.ModEq, Nat.mod_eq_of_lt a.isLt, Nat.mod_eq_of_lt b.isLt, Fin.ext_iff]

@[simp] theorem toZ_zero : toZ 0 = 0 := by simp [toZ]
@[simp] theorem toZ_one : toZ 1 = 1 := by
  have : (1 : Fp).val = 1 := by decide
  rw [toZ, this, Nat.cast_one]

@[simp] theorem toZ_toFp (v : Nat) : toZ (toFp v) = (v : ZMod p) := by
  simp [toZ, toFp, Fin.ofNat]

@[simp] theorem toZ_add (a b : Fp) : toZ (a + b) = toZ a + toZ b := by
  rw [toZ, Fin.val_add, ZMod.natCast_mod, Nat.cast_add]; rfl

@[simp] theorem toZ_mul (a b : Fp) : toZ (a * b) = toZ a * toZ b := by
  rw [toZ, Fin.val_mul, ZMod.natCast_mod, Nat.cast_mul]; rfl

@[simp] theorem toZ_neg (a : Fp) : toZ (-a) = -toZ a := by
  rw [toZ, Fin.val_neg', ZMod.natCast_mod, Nat.cast_sub a.isLt.le, ZMod.natCast_self, zero_sub]; rfl

@[simp] theorem toZ_sub (a b : Fp) : toZ (a - b) = toZ a - toZ b := by
  rw [toZ, Fin.sub_def]
  simp only [ZMod.natCast_mod, Nat.cast_add, Nat.cast_sub b.isLt.le, ZMod.natCast_self, zero_sub]
  rw [toZ, toZ]; ring

@[simp] theorem toZ_sqr (a : Fp) : toZ (sqr a) = toZ a ^ 2 := by simp [sqr, pow_two]

@[simp] theorem toZ_cube (a : Fp) : toZ (cube a) = toZ a ^ 3 := by simp [cube, pow_succ]

@[simp] theorem toZ_eq_zero (a : Fp) : toZ a = 0 ↔ a = 0 := by rw [← toZ_zero, toZ_inj]

/-- `fpPow` is the power. -/
theorem toZ_fpPow (a : Fp) (e : Nat) (he : e < 2 ^ 256) : toZ (fpPow a e) = toZ a ^ e := by
  rw [fpPow, toZ_toFp, modPow, modPowLoop_eq _ _ _ _ _ (Nat.mod_mod ..), ZMod.natCast_mod, Nat.mod_eq_of_lt he,
    Nat.mod_eq_of_lt (by decide), one_pow, one_mul, Nat.cast_pow]
  rfl

/-- inv_p of R14 is the inverse, and 0 at 0. -/
theorem toZ_invP [Fact (Nat.Prime p)] (a : Fp) : toZ (invP a) = (toZ a)⁻¹ := by
  rw [invP, toZ_fpPow _ _ (by decide)]
  rcases eq_or_ne (toZ a) 0 with h | h
  · rw [h, inv_zero, zero_pow (by decide)]
  · refine eq_inv_of_mul_eq_one_left ?_
    rw [← pow_succ, show p - 2 + 1 = p - 1 by decide]
    exact ZMod.pow_card_sub_one_eq_one h

end Sys2Proof.Machine
end

