-- ==== Sys2Proof/Laws/Memory.lean ====
section
/-!
SUPPORT. Sys2Proof/Laws/Memory.lean: the buffers' memory: a read after a write, and every operation keeps the canonical form.
-/

namespace Sys2Proof.Machine

@[simp] theorem Memory.read_nil (a : Nat) : Memory.read [] a = 0 := rfl

/-- Below the first entry every byte reads 0. -/
theorem Memory.read_of_lt (m : Memory) (a : Nat) (h : ∀ c ∈ m, a < c.1) : m.read a = 0 := by
  induction m with
  | nil => rfl
  | cons c m ih =>
    have hc : a < c.1 := h c (by simp)
    simp only [Memory.read, Nat.ne_of_lt hc, if_false]
    exact ih fun d hd => h d (by simp [hd])

/-- A read after a write of the same byte gives the value written. -/
theorem Memory.read_write_self (m : Memory) (a : Nat) (v : Byte) (h : m.Pairwise (fun c d => c.1 < d.1)) :
    (m.write a v).read a = v := by
  induction m with
  | nil => by_cases hv : v = 0#8 <;> simp [Memory.write, Memory.read, hv]
  | cons c m ih =>
    rw [List.pairwise_cons] at h
    obtain ⟨hlt, hm⟩ := h
    simp only [Memory.write]
    split
    · next hac =>
      by_cases hv : v = 0#8
      · rw [if_pos hv, hv]
        apply Memory.read_of_lt
        intro d hd
        rcases List.mem_cons.mp hd with rfl | hd
        · exact hac
        · exact hac.trans (hlt d hd)
      · simp [hv, Memory.read]
    · split
      · next _ hac =>
        by_cases hv : v = 0#8
        · rw [if_pos hv, hv]
          exact Memory.read_of_lt m a fun d hd => hac ▸ hlt d hd
        · simp [hv, Memory.read]
      · next _ hac => simp only [Memory.read, hac, if_false]; exact ih hm

/-- A write leaves every other byte alone. -/
theorem Memory.read_write_other (m : Memory) (a a' : Nat) (v : Byte) (h : m.Pairwise (fun c d => c.1 < d.1))
    (hne : a' ≠ a) : (m.write a v).read a' = m.read a' := by
  induction m with
  | nil => by_cases hv : v = 0#8 <;> simp [Memory.write, Memory.read, hv, hne]
  | cons c m ih =>
    rw [List.pairwise_cons] at h
    simp only [Memory.write]
    split
    · by_cases hv : v = 0#8 <;> simp [hv, Memory.read, hne]
    · split
      · next _ hac => by_cases hv : v = 0#8 <;> simp [hv, Memory.read, hne, ← hac]
      · simp only [Memory.read]
        split
        · rfl
        · exact ih h.2

/-- The entries of a written memory are old ones, or the byte written. -/
theorem Memory.mem_write (m : Memory) (a : Nat) (v : Byte) (c : Host.Cell) (h : c ∈ m.write a v) :
    c ∈ m ∨ (c = (a, v) ∧ v ≠ 0#8) := by
  induction m with
  | nil => by_cases hv : v = 0#8 <;> simp_all [Memory.write]
  | cons d m ih =>
    simp only [Memory.write] at h
    split at h
    · by_cases hv : v = 0#8 <;> (simp_all; try tauto)
    · split at h
      · by_cases hv : v = 0#8 <;> (simp_all; try tauto)
      · rcases List.mem_cons.mp h with rfl | h
        · simp
        · rcases ih h with h | h
          · exact .inl (by simp [h])
          · exact .inr h

/-- A write of a buffer byte keeps the canonical form. -/
theorem Memory.wf_write (m : Memory) (a : Nat) (v : Byte) (h : m.wf) (ha : isBufferByte a = true) : (m.write a v).wf := by
  refine ⟨?_, fun c hc => ?_⟩
  · obtain ⟨hp, -⟩ := h
    induction m with
    | nil => by_cases hv : v = 0#8 <;> simp [Memory.write, hv]
    | cons c m ih =>
      have hp' := hp
      rw [List.pairwise_cons] at hp
      simp only [Memory.write]
      split
      · next hac =>
        by_cases hv : v = 0#8
        · simpa [hv] using hp
        · rw [if_neg hv]
          refine List.pairwise_cons.mpr ⟨fun d hd => ?_, hp'⟩
          rcases List.mem_cons.mp hd with rfl | hd
          · exact hac
          · exact hac.trans (hp.1 d hd)
      · split
        · next _ hac =>
          by_cases hv : v = 0#8
          · simpa [hv] using hp.2
          · rw [if_neg hv]
            exact List.pairwise_cons.mpr ⟨fun d hd => by simpa [hac] using hp.1 d hd, hp.2⟩
        · next hna hne =>
          refine List.pairwise_cons.mpr ⟨fun d hd => ?_, ih hp.2⟩
          rcases Memory.mem_write m a v d hd with hd | ⟨rfl, -⟩
          · exact hp.1 d hd
          · exact Nat.lt_of_le_of_ne (Nat.le_of_not_lt hna) fun e => hne e.symm
  · rcases Memory.mem_write m a v c hc with hc | ⟨rfl, hv⟩
    · exact h.2 c hc
    · exact ⟨hv, ha⟩

/-- Writing buffer bytes one after the other keeps the canonical form. -/
theorem Memory.wf_writeBytes (vs : List Byte) (m : Memory) (a : Nat) (h : m.wf)
    (ha : ∀ k < vs.length, isBufferByte (a + k) = true) : (m.writeBytes a vs).wf := by
  induction vs generalizing m a with
  | nil => exact h
  | cons v vs ih =>
    refine ih (m.write a v) (a + 1) (m.wf_write a v h (by simpa using ha 0 (by simp))) fun k hk => ?_
    have := ha (k + 1) (by simpa using hk)
    rwa [Nat.add_right_comm, Nat.add_assoc] at *

/-- Bytes outside the range written read as before. -/
theorem Memory.read_writeBytes_other (vs : List Byte) (m : Memory) (a b : Nat)
    (h : m.wf) (ha : ∀ k < vs.length, isBufferByte (a + k) = true) (hb : ¬(a ≤ b ∧ b < a + vs.length)) :
    (m.writeBytes a vs).read b = m.read b := by
  induction vs generalizing m a with
  | nil => rfl
  | cons v vs ih =>
    have h0 : isBufferByte a = true := by simpa using ha 0 (by simp)
    simp only [Memory.writeBytes]
    rw [ih (m.write a v) (a + 1) (m.wf_write a v h h0)]
    · exact m.read_write_other a b v h.1 (by simp at hb; omega)
    · intro k hk
      have := ha (k + 1) (by simpa using hk)
      rwa [Nat.add_right_comm, Nat.add_assoc] at *
    · simp only [List.length_cons] at hb; omega

/-- Byte k of the range written reads as written. -/
theorem Memory.read_writeBytes (vs : List Byte) (m : Memory) (a k : Nat) (h : m.wf)
    (ha : ∀ j < vs.length, isBufferByte (a + j) = true) (hk : k < vs.length) :
    (m.writeBytes a vs).read (a + k) = vs.getD k 0 := by
  induction vs generalizing m a k with
  | nil => simp at hk
  | cons v vs ih =>
    have h0 : isBufferByte a = true := by simpa using ha 0 (by simp)
    have hs : ∀ j < vs.length, isBufferByte (a + 1 + j) = true := fun j hj => by
      have := ha (j + 1) (by simpa using hj)
      rwa [Nat.add_right_comm, Nat.add_assoc] at *
    simp only [Memory.writeBytes]
    cases k with
    | zero =>
      rw [Memory.read_writeBytes_other vs _ _ _ (m.wf_write a v h h0) hs (by omega)]
      simpa using m.read_write_self a v h.1
    | succ k =>
      have := ih (m.write a v) (a + 1) k (m.wf_write a v h h0) hs (by simpa using hk)
      rw [show a + (k + 1) = a + 1 + k by omega, this]
      simp

/-- The prefix of BUF that a command writes lies in BUF. -/
theorem isBufferByte_buf (k : Nat) (h : k < bufCapacity) : isBufferByte (bufBase + k) = true := by
  have h : k < 128 := h
  have hk : 256 + k < 384 := by omega
  simp [isBufferByte, bufBase, bufCapacity, hk]

/-- The memory of the reset state has the canonical form. -/
theorem Memory.wf_reset : Block.reset.mem.wf := ⟨List.Pairwise.nil, by simp [Block.reset]⟩

end Sys2Proof.Machine
end

