-- ==== Sys2Proof/Laws/State.lean ====
section
/-!
SUPPORT. Sys2Proof/Laws/State.lean: one lemma per field per update, so that no later proof unfolds a record update.
-/

namespace Sys2Proof.Machine

/-! ## Block.setReg -/

@[simp] theorem Block.setReg_regs (b : Block) (i : Reg) (v : Val) : (b.setReg i v).regs = b.regs.set i v := rfl
@[simp] theorem Block.setReg_mem (b : Block) (i : Reg) (v : Val) : (b.setReg i v).mem = b.mem := rfl
@[simp] theorem Block.setReg_buflen (b : Block) (i : Reg) (v : Val) : (b.setReg i v).buflen = b.buflen := rfl
@[simp] theorem Block.setReg_msglen (b : Block) (i : Reg) (v : Val) : (b.setReg i v).msglen = b.msglen := rfl
@[simp] theorem Block.setReg_dstlen (b : Block) (i : Reg) (v : Val) : (b.setReg i v).dstlen = b.dstlen := rfl
@[simp] theorem Block.setReg_ie (b : Block) (i : Reg) (v : Val) : (b.setReg i v).ie = b.ie := rfl
@[simp] theorem Block.setReg_busy (b : Block) (i : Reg) (v : Val) : (b.setReg i v).busy = b.busy := rfl
@[simp] theorem Block.setReg_done (b : Block) (i : Reg) (v : Val) : (b.setReg i v).done = b.done := rfl
@[simp] theorem Block.setReg_err (b : Block) (i : Reg) (v : Val) : (b.setReg i v).err = b.err := rfl
@[simp] theorem Block.setReg_ovr (b : Block) (i : Reg) (v : Val) : (b.setReg i v).ovr = b.ovr := rfl
@[simp] theorem Block.setReg_wbusy (b : Block) (i : Reg) (v : Val) : (b.setReg i v).wbusy = b.wbusy := rfl
@[simp] theorem Block.setReg_cmdlast (b : Block) (i : Reg) (v : Val) : (b.setReg i v).cmdlast = b.cmdlast := rfl
@[simp] theorem Block.setReg_errcode (b : Block) (i : Reg) (v : Val) : (b.setReg i v).errcode = b.errcode := rfl
@[simp] theorem Block.setReg_res (b : Block) (i : Reg) (v : Val) : (b.setReg i v).res = b.res := rfl

/-! ## Block.flagOk -/

@[simp] theorem Block.flagOk_regs (b : Block) : (b.flagOk).regs = b.regs := rfl
@[simp] theorem Block.flagOk_mem (b : Block) : (b.flagOk).mem = b.mem := rfl
@[simp] theorem Block.flagOk_buflen (b : Block) : (b.flagOk).buflen = b.buflen := rfl
@[simp] theorem Block.flagOk_msglen (b : Block) : (b.flagOk).msglen = b.msglen := rfl
@[simp] theorem Block.flagOk_dstlen (b : Block) : (b.flagOk).dstlen = b.dstlen := rfl
@[simp] theorem Block.flagOk_ie (b : Block) : (b.flagOk).ie = b.ie := rfl
@[simp] theorem Block.flagOk_busy (b : Block) : (b.flagOk).busy = false := rfl
@[simp] theorem Block.flagOk_done (b : Block) : (b.flagOk).done = true := rfl
@[simp] theorem Block.flagOk_err (b : Block) : (b.flagOk).err = false := rfl
@[simp] theorem Block.flagOk_ovr (b : Block) : (b.flagOk).ovr = b.ovr := rfl
@[simp] theorem Block.flagOk_wbusy (b : Block) : (b.flagOk).wbusy = b.wbusy := rfl
@[simp] theorem Block.flagOk_cmdlast (b : Block) : (b.flagOk).cmdlast = b.cmdlast := rfl
@[simp] theorem Block.flagOk_errcode (b : Block) : (b.flagOk).errcode = 0 := rfl
@[simp] theorem Block.flagOk_res (b : Block) : (b.flagOk).res = b.res := rfl

/-! ## Block.flagErr -/

@[simp] theorem Block.flagErr_regs (b : Block) (c : ErrCode) : (b.flagErr c).regs = b.regs := rfl
@[simp] theorem Block.flagErr_mem (b : Block) (c : ErrCode) : (b.flagErr c).mem = b.mem := rfl
@[simp] theorem Block.flagErr_buflen (b : Block) (c : ErrCode) : (b.flagErr c).buflen = b.buflen := rfl
@[simp] theorem Block.flagErr_msglen (b : Block) (c : ErrCode) : (b.flagErr c).msglen = b.msglen := rfl
@[simp] theorem Block.flagErr_dstlen (b : Block) (c : ErrCode) : (b.flagErr c).dstlen = b.dstlen := rfl
@[simp] theorem Block.flagErr_ie (b : Block) (c : ErrCode) : (b.flagErr c).ie = b.ie := rfl
@[simp] theorem Block.flagErr_busy (b : Block) (c : ErrCode) : (b.flagErr c).busy = false := rfl
@[simp] theorem Block.flagErr_done (b : Block) (c : ErrCode) : (b.flagErr c).done = true := rfl
@[simp] theorem Block.flagErr_err (b : Block) (c : ErrCode) : (b.flagErr c).err = true := rfl
@[simp] theorem Block.flagErr_ovr (b : Block) (c : ErrCode) : (b.flagErr c).ovr = b.ovr := rfl
@[simp] theorem Block.flagErr_wbusy (b : Block) (c : ErrCode) : (b.flagErr c).wbusy = b.wbusy := rfl
@[simp] theorem Block.flagErr_cmdlast (b : Block) (c : ErrCode) : (b.flagErr c).cmdlast = b.cmdlast := rfl
@[simp] theorem Block.flagErr_errcode (b : Block) (c : ErrCode) : (b.flagErr c).errcode = c.code := rfl
@[simp] theorem Block.flagErr_res (b : Block) (c : ErrCode) : (b.flagErr c).res = b.res := rfl

/-! ## Block.accept -/

@[simp] theorem Block.accept_regs (b : Block) (w : Word) : (b.accept w).regs = b.regs := rfl
@[simp] theorem Block.accept_mem (b : Block) (w : Word) : (b.accept w).mem = b.mem := rfl
@[simp] theorem Block.accept_buflen (b : Block) (w : Word) : (b.accept w).buflen = b.buflen := rfl
@[simp] theorem Block.accept_msglen (b : Block) (w : Word) : (b.accept w).msglen = b.msglen := rfl
@[simp] theorem Block.accept_dstlen (b : Block) (w : Word) : (b.accept w).dstlen = b.dstlen := rfl
@[simp] theorem Block.accept_ie (b : Block) (w : Word) : (b.accept w).ie = b.ie := rfl
@[simp] theorem Block.accept_busy (b : Block) (w : Word) : (b.accept w).busy = true := rfl
@[simp] theorem Block.accept_done (b : Block) (w : Word) : (b.accept w).done = false := rfl
@[simp] theorem Block.accept_err (b : Block) (w : Word) : (b.accept w).err = false := rfl
@[simp] theorem Block.accept_ovr (b : Block) (w : Word) : (b.accept w).ovr = b.ovr := rfl
@[simp] theorem Block.accept_wbusy (b : Block) (w : Word) : (b.accept w).wbusy = b.wbusy := rfl
@[simp] theorem Block.accept_cmdlast (b : Block) (w : Word) : (b.accept w).cmdlast = w := rfl
@[simp] theorem Block.accept_errcode (b : Block) (w : Word) : (b.accept w).errcode = 0 := rfl
@[simp] theorem Block.accept_res (b : Block) (w : Word) : (b.accept w).res = b.res := rfl

/-! ## Block.clearStatus -/

@[simp] theorem Block.clearStatus_regs (b : Block) (w : Word) : (b.clearStatus w).regs = b.regs := rfl
@[simp] theorem Block.clearStatus_mem (b : Block) (w : Word) : (b.clearStatus w).mem = b.mem := rfl
@[simp] theorem Block.clearStatus_buflen (b : Block) (w : Word) : (b.clearStatus w).buflen = b.buflen := rfl
@[simp] theorem Block.clearStatus_msglen (b : Block) (w : Word) : (b.clearStatus w).msglen = b.msglen := rfl
@[simp] theorem Block.clearStatus_dstlen (b : Block) (w : Word) : (b.clearStatus w).dstlen = b.dstlen := rfl
@[simp] theorem Block.clearStatus_ie (b : Block) (w : Word) : (b.clearStatus w).ie = b.ie := rfl
@[simp] theorem Block.clearStatus_busy (b : Block) (w : Word) : (b.clearStatus w).busy = b.busy := rfl
@[simp] theorem Block.clearStatus_done (b : Block) (w : Word) : (b.clearStatus w).done = (b.done && !w.getLsbD 1) := rfl
@[simp] theorem Block.clearStatus_err (b : Block) (w : Word) : (b.clearStatus w).err = (b.err && !w.getLsbD 2) := rfl
@[simp] theorem Block.clearStatus_ovr (b : Block) (w : Word) : (b.clearStatus w).ovr = (b.ovr && !w.getLsbD 3) := rfl
@[simp] theorem Block.clearStatus_wbusy (b : Block) (w : Word) : (b.clearStatus w).wbusy = (b.wbusy && !w.getLsbD 4) := rfl
@[simp] theorem Block.clearStatus_cmdlast (b : Block) (w : Word) : (b.clearStatus w).cmdlast = b.cmdlast := rfl
@[simp] theorem Block.clearStatus_errcode (b : Block) (w : Word) : (b.clearStatus w).errcode = b.errcode := rfl
@[simp] theorem Block.clearStatus_res (b : Block) (w : Word) : (b.clearStatus w).res = b.res := rfl

/-! ## Block.putBuf -/

@[simp] theorem Block.putBuf_regs (b : Block) (s : Option (List Byte)) : (b.putBuf s).regs = b.regs := by cases s <;> rfl
@[simp] theorem Block.putBuf_msglen (b : Block) (s : Option (List Byte)) : (b.putBuf s).msglen = b.msglen := by cases s <;> rfl
@[simp] theorem Block.putBuf_dstlen (b : Block) (s : Option (List Byte)) : (b.putBuf s).dstlen = b.dstlen := by cases s <;> rfl
@[simp] theorem Block.putBuf_ie (b : Block) (s : Option (List Byte)) : (b.putBuf s).ie = b.ie := by cases s <;> rfl
@[simp] theorem Block.putBuf_busy (b : Block) (s : Option (List Byte)) : (b.putBuf s).busy = b.busy := by cases s <;> rfl
@[simp] theorem Block.putBuf_done (b : Block) (s : Option (List Byte)) : (b.putBuf s).done = b.done := by cases s <;> rfl
@[simp] theorem Block.putBuf_err (b : Block) (s : Option (List Byte)) : (b.putBuf s).err = b.err := by cases s <;> rfl
@[simp] theorem Block.putBuf_ovr (b : Block) (s : Option (List Byte)) : (b.putBuf s).ovr = b.ovr := by cases s <;> rfl
@[simp] theorem Block.putBuf_wbusy (b : Block) (s : Option (List Byte)) : (b.putBuf s).wbusy = b.wbusy := by cases s <;> rfl
@[simp] theorem Block.putBuf_cmdlast (b : Block) (s : Option (List Byte)) : (b.putBuf s).cmdlast = b.cmdlast := by cases s <;> rfl
@[simp] theorem Block.putBuf_errcode (b : Block) (s : Option (List Byte)) : (b.putBuf s).errcode = b.errcode := by cases s <;> rfl
@[simp] theorem Block.putBuf_res (b : Block) (s : Option (List Byte)) : (b.putBuf s).res = b.res := by cases s <;> rfl

@[simp] theorem Block.putBuf_none (b : Block) : b.putBuf none = b := rfl
@[simp] theorem Block.putBuf_some_mem (b : Block) (s : List Byte) : (b.putBuf (some s)).mem = b.mem.writeBytes bufBase s := rfl
@[simp] theorem Block.putBuf_some_buflen (b : Block) (s : List Byte) :
    (b.putBuf (some s)).buflen = BitVec.ofNat 8 s.length := rfl

/-! ## Block.setRes -/

@[simp] theorem Block.setRes_regs (b : Block) (r : Option Bool) : (b.setRes r).regs = b.regs := by cases r <;> rfl
@[simp] theorem Block.setRes_mem (b : Block) (r : Option Bool) : (b.setRes r).mem = b.mem := by cases r <;> rfl
@[simp] theorem Block.setRes_buflen (b : Block) (r : Option Bool) : (b.setRes r).buflen = b.buflen := by cases r <;> rfl
@[simp] theorem Block.setRes_msglen (b : Block) (r : Option Bool) : (b.setRes r).msglen = b.msglen := by cases r <;> rfl
@[simp] theorem Block.setRes_dstlen (b : Block) (r : Option Bool) : (b.setRes r).dstlen = b.dstlen := by cases r <;> rfl
@[simp] theorem Block.setRes_ie (b : Block) (r : Option Bool) : (b.setRes r).ie = b.ie := by cases r <;> rfl
@[simp] theorem Block.setRes_busy (b : Block) (r : Option Bool) : (b.setRes r).busy = b.busy := by cases r <;> rfl
@[simp] theorem Block.setRes_done (b : Block) (r : Option Bool) : (b.setRes r).done = b.done := by cases r <;> rfl
@[simp] theorem Block.setRes_err (b : Block) (r : Option Bool) : (b.setRes r).err = b.err := by cases r <;> rfl
@[simp] theorem Block.setRes_ovr (b : Block) (r : Option Bool) : (b.setRes r).ovr = b.ovr := by cases r <;> rfl
@[simp] theorem Block.setRes_wbusy (b : Block) (r : Option Bool) : (b.setRes r).wbusy = b.wbusy := by cases r <;> rfl
@[simp] theorem Block.setRes_cmdlast (b : Block) (r : Option Bool) : (b.setRes r).cmdlast = b.cmdlast := by cases r <;> rfl
@[simp] theorem Block.setRes_errcode (b : Block) (r : Option Bool) : (b.setRes r).errcode = b.errcode := by cases r <;> rfl

@[simp] theorem Block.setRes_none (b : Block) : b.setRes none = b := rfl
@[simp] theorem Block.setRes_some_res (b : Block) (v : Bool) : (b.setRes (some v)).res = v := rfl

/-! ## Block.setRegs -/

@[simp] theorem Block.setRegs_mem (b : Block) (ws : List (Reg × Val)) : (b.setRegs ws).mem = b.mem := by
  induction ws generalizing b with
  | nil => rfl
  | cons w ws ih => exact ih (b.setReg w.1 w.2)
@[simp] theorem Block.setRegs_buflen (b : Block) (ws : List (Reg × Val)) : (b.setRegs ws).buflen = b.buflen := by
  induction ws generalizing b with
  | nil => rfl
  | cons w ws ih => exact ih (b.setReg w.1 w.2)
@[simp] theorem Block.setRegs_msglen (b : Block) (ws : List (Reg × Val)) : (b.setRegs ws).msglen = b.msglen := by
  induction ws generalizing b with
  | nil => rfl
  | cons w ws ih => exact ih (b.setReg w.1 w.2)
@[simp] theorem Block.setRegs_dstlen (b : Block) (ws : List (Reg × Val)) : (b.setRegs ws).dstlen = b.dstlen := by
  induction ws generalizing b with
  | nil => rfl
  | cons w ws ih => exact ih (b.setReg w.1 w.2)
@[simp] theorem Block.setRegs_ie (b : Block) (ws : List (Reg × Val)) : (b.setRegs ws).ie = b.ie := by
  induction ws generalizing b with
  | nil => rfl
  | cons w ws ih => exact ih (b.setReg w.1 w.2)
@[simp] theorem Block.setRegs_busy (b : Block) (ws : List (Reg × Val)) : (b.setRegs ws).busy = b.busy := by
  induction ws generalizing b with
  | nil => rfl
  | cons w ws ih => exact ih (b.setReg w.1 w.2)
@[simp] theorem Block.setRegs_done (b : Block) (ws : List (Reg × Val)) : (b.setRegs ws).done = b.done := by
  induction ws generalizing b with
  | nil => rfl
  | cons w ws ih => exact ih (b.setReg w.1 w.2)
@[simp] theorem Block.setRegs_err (b : Block) (ws : List (Reg × Val)) : (b.setRegs ws).err = b.err := by
  induction ws generalizing b with
  | nil => rfl
  | cons w ws ih => exact ih (b.setReg w.1 w.2)
@[simp] theorem Block.setRegs_ovr (b : Block) (ws : List (Reg × Val)) : (b.setRegs ws).ovr = b.ovr := by
  induction ws generalizing b with
  | nil => rfl
  | cons w ws ih => exact ih (b.setReg w.1 w.2)
@[simp] theorem Block.setRegs_wbusy (b : Block) (ws : List (Reg × Val)) : (b.setRegs ws).wbusy = b.wbusy := by
  induction ws generalizing b with
  | nil => rfl
  | cons w ws ih => exact ih (b.setReg w.1 w.2)
@[simp] theorem Block.setRegs_cmdlast (b : Block) (ws : List (Reg × Val)) : (b.setRegs ws).cmdlast = b.cmdlast := by
  induction ws generalizing b with
  | nil => rfl
  | cons w ws ih => exact ih (b.setReg w.1 w.2)
@[simp] theorem Block.setRegs_errcode (b : Block) (ws : List (Reg × Val)) : (b.setRegs ws).errcode = b.errcode := by
  induction ws generalizing b with
  | nil => rfl
  | cons w ws ih => exact ih (b.setReg w.1 w.2)
@[simp] theorem Block.setRegs_res (b : Block) (ws : List (Reg × Val)) : (b.setRegs ws).res = b.res := by
  induction ws generalizing b with
  | nil => rfl
  | cons w ws ih => exact ih (b.setReg w.1 w.2)

/-! ## Updates of the whole state -/

@[simp] theorem State.complete_toBlock (s : State) (o : EngineOutcome) : (s.complete o).toBlock = s.toBlock.complete o := rfl
@[simp] theorem State.complete_script (s : State) (o : EngineOutcome) : (s.complete o).script = s.script := rfl
@[simp] theorem State.complete_reply (s : State) (o : EngineOutcome) : (s.complete o).reply = s.reply := rfl
@[simp] theorem State.complete_entropy (s : State) (o : EngineOutcome) : (s.complete o).entropy = s.entropy := rfl
@[simp] theorem State.complete_drawn (s : State) (o : EngineOutcome) : (s.complete o).drawn = s.drawn := rfl
@[simp] theorem State.complete_busyReads (s : State) (o : EngineOutcome) : (s.complete o).busyReads = s.busyReads := rfl

@[simp] theorem State.resetBlock_toBlock (s : State) : s.resetBlock.toBlock = Block.reset := rfl
@[simp] theorem State.resetBlock_script (s : State) : s.resetBlock.script = s.script := rfl
@[simp] theorem State.resetBlock_reply (s : State) : s.resetBlock.reply = .nothing := rfl
@[simp] theorem State.resetBlock_entropy (s : State) : s.resetBlock.entropy = s.entropy := rfl
@[simp] theorem State.resetBlock_drawn (s : State) : s.resetBlock.drawn = s.drawn := rfl
@[simp] theorem State.resetBlock_busyReads (s : State) : s.resetBlock.busyReads = s.busyReads := rfl

@[simp] theorem State.busError_toBlock (s : State) : s.busError.toBlock = s.toBlock := rfl
@[simp] theorem State.hostRead_toBlock (s : State) (o : Offset) : (s.hostRead o).toBlock = s.toBlock := by
  unfold State.hostRead; split <;> rfl

end Sys2Proof.Machine
end

