-- ==== Sys2Proof/Laws/Ops.lean ====
section
/-!
SUPPORT. Sys2Proof/Laws/Ops.lean: what the shared operations of Machine/Ops.lean can do, said once.
-/

namespace Sys2Proof.Machine

/-! ## Registers -/

theorem Block.reg_eq (b c : Block) (h : c.regs = b.regs) (j : Reg) : c.reg j = b.reg j := by simp [Block.reg, h]

@[simp] theorem Block.reg_setReg_self (b : Block) (i : Reg) (v : Val) : (b.setReg i v).reg i = v := by
  simp [Block.reg, Block.setReg]

@[simp] theorem Block.reg_setReg_other (b : Block) (i j : Reg) (v : Val) (h : j ≠ i) :
    (b.setReg i v).reg j = b.reg j := by
  have hv : i.val ≠ j.val := fun e => h (Fin.ext e.symm)
  simp [Block.reg, Block.setReg, hv]

/-- A register that no write names keeps its value. -/
theorem Block.reg_setRegs_other (b : Block) (ws : List (Reg × Val)) (j : Reg) (h : ∀ w ∈ ws, j ≠ w.1) :
    (b.setRegs ws).reg j = b.reg j := by
  induction ws generalizing b with
  | nil => rfl
  | cons w ws ih =>
    simp only [Block.setRegs]
    rw [ih _ fun u hu => h u (by simp [hu])]
    exact b.reg_setReg_other w.1 j w.2 (h w (by simp))

theorem Block.reg_setRegs_one (b : Block) (i : Reg) (v : Val) : (b.setRegs [(i, v)]).reg i = v := by
  simp [Block.setRegs]

theorem Reg.succ_ne (i : Reg) : i + 1 ≠ i ∧ i + 2 ≠ i ∧ i + 2 ≠ i + 1 := by revert i; decide

/-- Each register of a triple reads as the triple's write names it. -/
theorem Block.reg_setRegs_triple (b : Block) (rd : Reg) (x y z : Val) :
    (b.setRegs [(rd, x), (rd + 1, y), (rd + 2, z)]).reg rd = x ∧
    (b.setRegs [(rd, x), (rd + 1, y), (rd + 2, z)]).reg (rd + 1) = y ∧
    (b.setRegs [(rd, x), (rd + 1, y), (rd + 2, z)]).reg (rd + 2) = z := by
  obtain ⟨h1, h2, h3⟩ := Reg.succ_ne rd
  simp only [Block.setRegs]
  refine ⟨?_, ?_, ?_⟩
  · rw [Block.reg_setReg_other _ _ _ _ h2.symm, Block.reg_setReg_other _ _ _ _ h1.symm, Block.reg_setReg_self]
  · rw [Block.reg_setReg_other _ _ _ _ h3.symm, Block.reg_setReg_self]
  · rw [Block.reg_setReg_self]

/-! ## Completion -/

/-- A completion with code 0, field by field (R124). -/
theorem Block.complete_ok (b : Block) (e : Effects) :
    b.complete (.ok e) = (((b.setRegs e.regs).putBuf e.buf).setRes e.res).flagOk := rfl

/-- A completion with an error writes the flags and nothing else (R124, R288). -/
theorem Block.complete_error (b : Block) (c : ErrCode) : b.complete (.error c) = b.flagErr c := rfl

/-- What no outcome touches. -/
theorem Block.complete_keeps (b : Block) (o : EngineOutcome) :
    (b.complete o).msglen = b.msglen ∧ (b.complete o).dstlen = b.dstlen ∧ (b.complete o).ie = b.ie ∧
    (b.complete o).ovr = b.ovr ∧ (b.complete o).wbusy = b.wbusy ∧ (b.complete o).cmdlast = b.cmdlast := by
  cases o <;> simp [Block.complete]

/-- Every completion ends the command in flight (R124). -/
theorem Block.complete_idle (b : Block) (o : EngineOutcome) :
    (b.complete o).busy = false ∧ (b.complete o).done = true := by
  cases o <;> simp [Block.complete]

/-- The flags of a completion are those of its outcome (R124). -/
theorem Block.complete_code (b : Block) (o : EngineOutcome) :
    (∃ e, o = .ok e ∧ (b.complete o).err = false ∧ (b.complete o).errcode = 0) ∨
    (∃ c, o = .error c ∧ (b.complete o).err = true ∧ (b.complete o).errcode = c.code) := by
  cases o with
  | ok e => exact .inl ⟨e, rfl, by simp [Block.complete], by simp [Block.complete]⟩
  | error c => exact .inr ⟨c, rfl, by simp [Block.complete], by simp [Block.complete]⟩

theorem ErrCode.code_ne_zero (c : ErrCode) : c.code ≠ 0 := by cases c <;> decide

theorem ErrCode.code_le (c : ErrCode) : c.code.toNat ≤ 5 := by cases c <;> decide

/-! ## Draws -/

/-- What a rejection loop takes: the draws that waited are rejected ones, then, if one is accepted, that one; or one more
draw of the source (R125). -/
theorem drawUntil_cases (accept : Nat → Bool) (ds : List Val) (k : Nat) :
    (∃ rej d rest, ds = rej ++ d :: rest ∧ (∀ r ∈ rej, accept r.toNat = false) ∧ accept d.toNat = true ∧
      drawUntil accept ds k = (some d.toNat, rest, k)) ∨
    ((∀ r ∈ ds, accept r.toNat = false) ∧ accept (Config.draw k).toNat = true ∧
      drawUntil accept ds k = (some (Config.draw k).toNat, [], k + 1)) ∨
    ((∀ r ∈ ds, accept r.toNat = false) ∧ accept (Config.draw k).toNat = false ∧
      drawUntil accept ds k = (none, [], k + 1)) := by
  induction ds with
  | nil => cases h : accept (Config.draw k).toNat <;> simp [drawUntil, h]
  | cons d ds ih =>
    cases h : accept d.toNat with
    | true => exact .inl ⟨[], d, ds, rfl, by simp, h, by simp [drawUntil, h]⟩
    | false =>
      rcases ih with ⟨rej, d', rest, rfl, hr, hd, he⟩ | ⟨hr, hd, he⟩ | ⟨hr, hd, he⟩
      · exact .inl ⟨d :: rej, d', rest, rfl, by simpa [h] using hr, hd, by simp [drawUntil, h, he]⟩
      · exact .inr (.inl ⟨by simpa [h] using hr, hd, by simp [drawUntil, h, he]⟩)
      · exact .inr (.inr ⟨by simpa [h] using hr, hd, by simp [drawUntil, h, he]⟩)

/-- A drawing command either completes with an accepted draw's outcome or stays in flight; either way only the draws move
outside the block (R125). -/
theorem State.finishDrawn_cases (s : State) (accept : Nat → Bool) (f : Nat → EngineOutcome) :
    ∃ ds k, (∃ v, accept v = true ∧ s.finishDrawn accept f = .next ({ s with entropy := ds, drawn := k }.complete (f v))) ∨
      s.finishDrawn accept f = .next { s with entropy := ds, drawn := k } := by
  rcases drawUntil_cases accept s.entropy s.drawn with ⟨_, d, rest, _, _, hd, he⟩ | ⟨_, hd, he⟩ | ⟨_, _, he⟩
  · exact ⟨rest, s.drawn, .inl ⟨_, hd, by simp [State.finishDrawn, he]⟩⟩
  · exact ⟨[], s.drawn + 1, .inl ⟨_, hd, by simp [State.finishDrawn, he]⟩⟩
  · exact ⟨[], s.drawn + 1, .inr (by simp [State.finishDrawn, he])⟩

end Sys2Proof.Machine
end

