-- ==== Sys2Proof/Laws/PerInstr.lean ====
section
/-!
SUPPORT. Sys2Proof/Laws/PerInstr.lean: statements for all commands, made per command. `EncodeFields`: the encoding of a
command lies in its own row of R105, and that row reads the command back from its fields.
-/

namespace Sys2Proof.Laws.EncodeFields

def Statement (i : Instr) : Prop :=
  ∃ r ∈ rows, r.opc = opcOf (encode i) ∧ r.mode = modeOf (encode i) ∧ r.unusedZero (fieldsOf (encode i)) = true ∧
    r.inRange (fieldsOf (encode i)) = i.wf ∧ r.build (fieldsOf (encode i)) = i

/-- A command whose word is packed from row k's opcode and mode and from fields that row k reads back. -/
theorem of_row (i : Instr) (k : Nat) (hk : k < rows.length) (rd rs1 rs2 rs3 : Reg)
    (he : encode i = pack rows[k].opc rows[k].mode rd rs1 rs2 rs3)
    (hz : rows[k].unusedZero ⟨rd, rs1, rs2, rs3⟩ = true) (hr : rows[k].inRange ⟨rd, rs1, rs2, rs3⟩ = i.wf)
    (hb : rows[k].build ⟨rd, rs1, rs2, rs3⟩ = i) : Statement i := by
  refine ⟨rows[k], List.getElem_mem hk, ?_⟩
  rw [he, opcOf_pack, modeOf_pack, fieldsOf_pack]
  exact ⟨rfl, rfl, hz, hr, hb⟩

theorem nop : Statement .nop :=
  of_row _ 0 (by decide) 0 0 0 0 rfl rfl rfl rfl

theorem ldc (rd rs1 : Reg) : Statement (.ldc rd rs1) :=
  of_row _ 1 (by decide) rd rs1 0 0 rfl rfl (by show (true && constOk rs1 && true && true) = _; simp [Instr.wf]) rfl

theorem modmul (rd rs1 rs2 rs3 : Reg) : Statement (.modmul rd rs1 rs2 rs3) :=
  of_row _ 2 (by decide) rd rs1 rs2 rs3 rfl rfl rfl rfl

theorem modmulS (rd rs1 rs2 rs3 : Reg) : Statement (.modmulS rd rs1 rs2 rs3) :=
  of_row _ 3 (by decide) rd rs1 rs2 rs3 rfl rfl rfl rfl

theorem modinv (rd rs1 rs3 : Reg) : Statement (.modinv rd rs1 rs3) :=
  of_row _ 4 (by decide) rd rs1 0 rs3 rfl rfl rfl rfl

theorem modinvS (rd rs1 rs3 : Reg) : Statement (.modinvS rd rs1 rs3) :=
  of_row _ 5 (by decide) rd rs1 0 rs3 rfl rfl rfl rfl

theorem modexp (rd rs1 rs2 rs3 : Reg) : Statement (.modexp rd rs1 rs2 rs3) :=
  of_row _ 6 (by decide) rd rs1 rs2 rs3 rfl rfl rfl rfl

theorem modexpS (rd rs1 rs2 rs3 : Reg) : Statement (.modexpS rd rs1 rs2 rs3) :=
  of_row _ 7 (by decide) rd rs1 rs2 rs3 rfl rfl rfl rfl

theorem padd (rd rs1 rs2 : Reg) : Statement (.padd rd rs1 rs2) :=
  of_row _ 8 (by decide) rd rs1 rs2 0 rfl rfl (by show (tripleOk rd && tripleOk rs1 && tripleOk rs2 && true) = _; simp [Instr.wf]) rfl

theorem pdbl (rd rs1 : Reg) : Statement (.pdbl rd rs1) :=
  of_row _ 9 (by decide) rd rs1 0 0 rfl rfl (by show (tripleOk rd && tripleOk rs1 && true && true) = _; simp [Instr.wf]) rfl

theorem pneg (rd rs1 : Reg) : Statement (.pneg rd rs1) :=
  of_row _ 10 (by decide) rd rs1 0 0 rfl rfl (by show (tripleOk rd && tripleOk rs1 && true && true) = _; simp [Instr.wf]) rfl

theorem psub (rd rs1 rs2 : Reg) : Statement (.psub rd rs1 rs2) :=
  of_row _ 11 (by decide) rd rs1 rs2 0 rfl rfl (by show (tripleOk rd && tripleOk rs1 && tripleOk rs2 && true) = _; simp [Instr.wf]) rfl

theorem paff (rd rs1 : Reg) : Statement (.paff rd rs1) :=
  of_row _ 12 (by decide) rd rs1 0 0 rfl rfl (by show (tripleOk rd && tripleOk rs1 && true && true) = _; simp [Instr.wf]) rfl

theorem pmul (rd rs1 rs2 : Reg) : Statement (.pmul rd rs1 rs2) :=
  of_row _ 13 (by decide) rd rs1 rs2 0 rfl rfl (by show (tripleOk rd && tripleOk rs1 && true && true) = _; simp [Instr.wf]) rfl

theorem pmulS (rd rs1 rs2 : Reg) : Statement (.pmulS rd rs1 rs2) :=
  of_row _ 14 (by decide) rd rs1 rs2 0 rfl rfl (by show (tripleOk rd && tripleOk rs1 && true && true) = _; simp [Instr.wf]) rfl

theorem pmulg (rd rs1 : Reg) : Statement (.pmulg rd rs1) :=
  of_row _ 15 (by decide) rd rs1 0 0 rfl rfl (by show (tripleOk rd && true && true && true) = _; simp [Instr.wf]) rfl

theorem pmulgS (rd rs1 : Reg) : Statement (.pmulgS rd rs1) :=
  of_row _ 16 (by decide) rd rs1 0 0 rfl rfl (by show (tripleOk rd && true && true && true) = _; simp [Instr.wf]) rfl

theorem pencC (rs1 : Reg) : Statement (.pencC rs1) :=
  of_row _ 17 (by decide) 0 rs1 0 0 rfl rfl (by show (true && tripleOk rs1 && true && true) = _; simp [Instr.wf]) rfl

theorem pencU (rs1 : Reg) : Statement (.pencU rs1) :=
  of_row _ 18 (by decide) 0 rs1 0 0 rfl rfl (by show (true && tripleOk rs1 && true && true) = _; simp [Instr.wf]) rfl

theorem pencX (rs1 : Reg) : Statement (.pencX rs1) :=
  of_row _ 19 (by decide) 0 rs1 0 0 rfl rfl (by show (true && tripleOk rs1 && true && true) = _; simp [Instr.wf]) rfl

theorem pdec (rd : Reg) : Statement (.pdec rd) :=
  of_row _ 20 (by decide) rd 0 0 0 rfl rfl (by show (tripleOk rd && true && true && true) = _; simp [Instr.wf]) rfl

theorem pdecX (rd : Reg) : Statement (.pdecX rd) :=
  of_row _ 21 (by decide) rd 0 0 0 rfl rfl (by show (tripleOk rd && true && true && true) = _; simp [Instr.wf]) rfl

theorem pvalid (rs1 : Reg) : Statement (.pvalid rs1) :=
  of_row _ 22 (by decide) 0 rs1 0 0 rfl rfl (by show (true && tripleOk rs1 && true && true) = _; simp [Instr.wf]) rfl

theorem peq (rs1 rs2 : Reg) : Statement (.peq rs1 rs2) :=
  of_row _ 23 (by decide) 0 rs1 rs2 0 rfl rfl (by show (true && tripleOk rs1 && tripleOk rs2 && true) = _; simp [Instr.wf]) rfl

theorem keygen (rd : Reg) : Statement (.keygen rd) :=
  of_row _ 24 (by decide) rd 0 0 0 rfl rfl (by show (quadOk rd && true && true && true) = _; simp [Instr.wf]) rfl

theorem ecdsaSign (rs1 rs2 rs3 : Reg) : Statement (.ecdsaSign rs1 rs2 rs3) :=
  of_row _ 25 (by decide) 0 rs1 rs2 rs3 rfl rfl rfl rfl

theorem ecdsaSignR (rs1 rs2 : Reg) : Statement (.ecdsaSignR rs1 rs2) :=
  of_row _ 26 (by decide) 0 rs1 rs2 0 rfl rfl rfl rfl

theorem ecdsaVerify (rs1 rs2 : Reg) : Statement (.ecdsaVerify rs1 rs2) :=
  of_row _ 27 (by decide) 0 rs1 rs2 0 rfl rfl (by show (true && tripleOk rs1 && true && true) = _; simp [Instr.wf]) rfl

theorem ecdsaRecover (rd rs2 : Reg) : Statement (.ecdsaRecover rd rs2) :=
  of_row _ 28 (by decide) rd 0 rs2 0 rfl rfl (by show (tripleOk rd && true && true && true) = _; simp [Instr.wf]) rfl

theorem schnorrSign (rs1 rs2 : Reg) : Statement (.schnorrSign rs1 rs2) :=
  of_row _ 29 (by decide) 0 rs1 rs2 0 rfl rfl rfl rfl

theorem schnorrVerify (rs1 : Reg) : Statement (.schnorrVerify rs1) :=
  of_row _ 30 (by decide) 0 rs1 0 0 rfl rfl rfl rfl

theorem tapTweak (rd rs1 rs2 : Reg) : Statement (.tapTweak rd rs1 rs2) :=
  of_row _ 31 (by decide) rd rs1 rs2 0 rfl rfl rfl rfl

theorem tapTweakN (rd rs1 : Reg) : Statement (.tapTweakN rd rs1) :=
  of_row _ 32 (by decide) rd rs1 0 0 rfl rfl rfl rfl

theorem tapSign (rs1 rs2 rs3 : Reg) : Statement (.tapSign rs1 rs2 rs3) :=
  of_row _ 33 (by decide) 0 rs1 rs2 rs3 rfl rfl rfl rfl

theorem tapSignN (rs1 rs3 : Reg) : Statement (.tapSignN rs1 rs3) :=
  of_row _ 34 (by decide) 0 rs1 0 rs3 rfl rfl rfl rfl

theorem tapVerify (rs1 rs2 : Reg) : Statement (.tapVerify rs1 rs2) :=
  of_row _ 35 (by decide) 0 rs1 rs2 0 rfl rfl rfl rfl

theorem tapVerifyN (rs1 : Reg) : Statement (.tapVerifyN rs1) :=
  of_row _ 36 (by decide) 0 rs1 0 0 rfl rfl rfl rfl

theorem h2c (rd : Reg) : Statement (.h2c rd) :=
  of_row _ 37 (by decide) rd 0 0 0 rfl rfl (by show (tripleOk rd && true && true && true) = _; simp [Instr.wf]) rfl

end Sys2Proof.Laws.EncodeFields
end

