-- ==== Sys2Proof/Laws/Step.lean ====
section
/-!
SUPPORT. Sys2Proof/Laws/Step.lean: everything a command, a move of the host and a step can do, said once.
-/

namespace Sys2Proof.Machine

/-- A command that draws nothing ends in one completion, whose outcome depends on the block alone. -/
theorem exec_undrawn (i : Instr) (s : State) (h : draws i = false) : ∃ o, exec i s = .next (s.complete o) := by
  cases i <;> first | exact ⟨_, rfl⟩ | simp [draws] at h

/-- Every command ends in one completion or in a rejection loop over draws. -/
theorem exec_cases (i : Instr) (s : State) :
    (∃ o, exec i s = .next (s.complete o)) ∨ ∃ accept f, exec i s = s.finishDrawn accept f := by
  cases i
  case keygen rd => exact .inr ⟨_, _, rfl⟩
  case ecdsaSignR rs1 rs2 =>
    simp only [exec, execEcdsaSignR]
    split
    · exact .inl ⟨_, rfl⟩
    · exact .inr ⟨_, _, rfl⟩
  all_goals exact .inl ⟨_, rfl⟩

/-- What a command can do to the state: the block completes with some outcome, or stays as it is and in flight; outside the
block only the draws move. -/
theorem exec_next (i : Instr) (s : State) :
    ∃ ds k, (∃ o, exec i s = .next ({ s with entropy := ds, drawn := k }.complete o)) ∨
      exec i s = .next { s with entropy := ds, drawn := k } := by
  rcases exec_cases i s with ⟨o, h⟩ | ⟨accept, f, h⟩
  · exact ⟨s.entropy, s.drawn, .inl ⟨o, h⟩⟩
  · obtain ⟨ds, k, ⟨v, -, hv⟩ | hn⟩ := s.finishDrawn_cases accept f
    · exact ⟨ds, k, .inl ⟨f v, h.trans hv⟩⟩
    · exact ⟨ds, k, .inr (h.trans hn)⟩

/-- What the engine's turn can do. -/
theorem engineTurn_next (s : State) :
    ∃ ds k, (s.busy = true ∧ ∃ o, engineTurn s = .next ({ s with entropy := ds, drawn := k }.complete o)) ∨
      engineTurn s = .next { s with entropy := ds, drawn := k } := by
  simp only [engineTurn, runCommand]
  split
  · next hb =>
    split
    · next i _ =>
      obtain ⟨ds, k, ⟨o, h⟩ | h⟩ := exec_next i s
      · exact ⟨ds, k, .inl ⟨hb, o, h⟩⟩
      · exact ⟨ds, k, .inr h⟩
    · exact ⟨s.entropy, s.drawn, .inl ⟨hb, .error .illegal, rfl⟩⟩
  · exact ⟨s.entropy, s.drawn, .inr rfl⟩

/-- The four forms of a host move (R91): a read, a write that is not a soft reset, a reset, or an access without effect. -/
theorem State.hostMove_cases (s : State) (m : HostMove) :
    (∃ k r, s.hostMove m = { s with reply := r, busyReads := k }) ∨
    (∃ o w, m = .write o w ∧ aligned o = true ∧ isSoftReset o w = false ∧
      s.hostMove m = { s with toBlock := s.toBlock.writeWord o w, reply := .nothing }) ∨
    (∃ o w, m = .write o w ∧ aligned o = true ∧ isSoftReset o w = true ∧ s.hostMove m = s.resetBlock) := by
  cases m with
  | read o =>
    refine .inl ?_
    simp only [State.hostMove, State.hostRead, State.busError]
    split
    · split
      · exact ⟨_, _, rfl⟩
      · exact ⟨s.busyReads, _, rfl⟩
    · exact ⟨s.busyReads, _, rfl⟩
  | write o w =>
    cases ha : aligned o with
    | false => exact .inl ⟨s.busyReads, .busError, by simp [State.hostMove, ha, State.busError]⟩
    | true =>
      cases hr : isSoftReset o w with
      | false => exact .inr (.inl ⟨o, w, rfl, ha, hr, by simp [State.hostMove, ha, State.hostWrite, hr]⟩)
      | true => exact .inr (.inr ⟨o, w, rfl, ha, hr, by simp [State.hostMove, ha, State.hostWrite, hr]⟩)
  | other width o => exact .inl ⟨s.busyReads, .busError, rfl⟩
  | observeIrq => exact .inl ⟨s.busyReads, _, rfl⟩

/-- The three kinds of event (R21, R310). -/
theorem step_cases (s : State) :
    (EngineNext s ∧ step s = engineTurn s.past) ∨
    (∃ m, HostNext s m ∧ step s = .next (s.past.hostMove m)) ∨
    ((∃ rest, s.script = .hardReset :: rest) ∧ step s = .next s.past.resetBlock) := by
  rcases h : s.script with _ | ⟨e, rest⟩
  · exact .inl ⟨.inl h, by cases s; simp_all [step, State.past]⟩
  · cases e with
    | host m => exact .inr (.inl ⟨m, ⟨rest, h⟩, by simp [step, h, State.past]⟩)
    | engine => exact .inl ⟨.inr ⟨rest, h⟩, by simp [step, h, State.past]⟩
    | hardReset => exact .inr (.inr ⟨⟨rest, rfl⟩, by simp [step, h, State.past]⟩)

/-- A read of an aligned word, as a step. -/
theorem step_read (s : State) (o : Offset) (h : HostNext s (.read o)) (ha : o.toNat % 4 = 0) :
    step s = .next (s.past.hostRead o) := by
  obtain ⟨rest, hr⟩ := h
  simp [step, hr, State.hostMove, aligned, ha, State.past]

/-- A write of an aligned word, as a step. -/
theorem step_write (s : State) (o : Offset) (w : Word) (h : HostNext s (.write o w)) (ha : o.toNat % 4 = 0) :
    step s = .next (s.past.hostWrite o w) := by
  obtain ⟨rest, hr⟩ := h
  simp [step, hr, State.hostMove, aligned, ha, State.past]

end Sys2Proof.Machine
end

