-- ==== Sys2Proof/Laws/Window.lean ====
section
/-!
SUPPORT. Sys2Proof/Laws/Window.lean: the bytes of a host word and of an operand register, and what a byte or word write does
to the block's parts. Every operation on the buffers keeps the canonical form of their memory.
-/

namespace Sys2Proof.Machine

/-! ## Bytes -/

/-- The bytes of a packed word are the bytes it was packed from (R74). -/
theorem lane_packLanes (b0 b1 b2 b3 : Byte) :
    lane (packLanes b0 b1 b2 b3) 0 = b0 ∧ lane (packLanes b0 b1 b2 b3) 1 = b1 ∧
    lane (packLanes b0 b1 b2 b3) 2 = b2 ∧ lane (packLanes b0 b1 b2 b3) 3 = b3 := by
  refine ⟨?_, ?_, ?_, ?_⟩
  · exact (extract_low _ b0 0 8 (by omega)).trans (extract_all b0)
  · exact (extract_high _ b0 0 8).trans ((extract_low _ b1 0 8 (by omega)).trans (extract_all b1))
  · exact (extract_high _ b0 8 8).trans ((extract_high _ b1 0 8).trans
      ((extract_low _ b2 0 8 (by omega)).trans (extract_all b2)))
  · exact (extract_high _ b0 16 8).trans ((extract_high _ b1 8 8).trans
      ((extract_high _ b2 0 8).trans (extract_all b3)))

/-- Byte j of a register after byte j is replaced. -/
theorem valByte_setValByte_self (v : Val) (j : Nat) (b : Byte) (h : j < 32) : valByte (setValByte v j b) j = b := by
  ext i hi
  simp only [valByte, setValByte, BitVec.getElem_extractLsb', BitVec.getLsbD_or, BitVec.getLsbD_and,
    BitVec.getLsbD_not, BitVec.getLsbD_shiftLeft, BitVec.getLsbD_setWidth]
  have h1 : 8 * (31 - j) + i < 256 := by omega
  have h2 : 8 * (31 - j) + i - 8 * (31 - j) = i := by omega
  have h3 : (255#8)[i] = true := BitVec.getElem_allOnes i hi
  simp [h1, h2, hi, h3, show i < 256 by omega]

/-- The other bytes of a register after byte j is replaced. -/
theorem valByte_setValByte_other (v : Val) (j k : Nat) (b : Byte) (hj : j < 32) (hk : k < 32) (h : k ≠ j) :
    valByte (setValByte v j b) k = valByte v k := by
  ext i hi
  simp only [valByte, setValByte, BitVec.getElem_extractLsb', BitVec.getLsbD_or, BitVec.getLsbD_and,
    BitVec.getLsbD_not, BitVec.getLsbD_shiftLeft, BitVec.getLsbD_setWidth]
  have h1 : 8 * (31 - k) + i < 256 := by omega
  by_cases hlt : 8 * (31 - k) + i < 8 * (31 - j)
  · simp [h1, hlt]
  · have h8 : 8 ≤ 8 * (31 - k) + i - 8 * (31 - j) := by omega
    simp [h1, BitVec.getLsbD_of_ge _ _ h8]

/-! ## Writes of bytes and words -/

/-- A byte write touches one buffer byte, or one operand register, or nothing (R75, R82). -/
theorem Block.setByteAt_cases (b : Block) (a : Nat) (v : Byte) :
    (isBufferByte a = true ∧ b.setByteAt a v = { b with mem := b.mem.write a v }) ∨
    (isBufferByte a = false ∧ isRegByte a = true ∧
      b.setByteAt a v = b.setReg (regAt a) (setValByte (b.reg (regAt a)) (regByteAt a) v)) ∨
    (isBufferByte a = false ∧ isRegByte a = false ∧ b.setByteAt a v = b) := by
  cases hb : isBufferByte a <;> cases hr : isRegByte a <;> simp [Block.setByteAt, hb, hr]

/-- What a byte write leaves alone. -/
theorem Block.setByteAt_keeps (b : Block) (a : Nat) (v : Byte) :
    (b.setByteAt a v).buflen = b.buflen ∧ (b.setByteAt a v).msglen = b.msglen ∧ (b.setByteAt a v).dstlen = b.dstlen ∧
    (b.setByteAt a v).ie = b.ie ∧ (b.setByteAt a v).busy = b.busy ∧ (b.setByteAt a v).done = b.done ∧
    (b.setByteAt a v).err = b.err ∧ (b.setByteAt a v).ovr = b.ovr ∧ (b.setByteAt a v).wbusy = b.wbusy ∧
    (b.setByteAt a v).cmdlast = b.cmdlast ∧ (b.setByteAt a v).errcode = b.errcode ∧ (b.setByteAt a v).res = b.res := by
  rcases b.setByteAt_cases a v with ⟨-, h⟩ | ⟨-, -, h⟩ | ⟨-, -, h⟩ <;> rw [h] <;> simp

/-- A byte write keeps the canonical form. -/
theorem Block.wf_setByteAt (b : Block) (a : Nat) (v : Byte) (h : b.mem.wf) : (b.setByteAt a v).mem.wf := by
  rcases b.setByteAt_cases a v with ⟨hb, he⟩ | ⟨-, -, he⟩ | ⟨-, -, he⟩
  · rw [he]; exact b.mem.wf_write a v h hb
  · rw [he]; exact h
  · rw [he]; exact h

/-- A word write keeps the canonical form. -/
theorem Block.wf_setDataWord (b : Block) (a : Nat) (w : Word) (h : b.mem.wf) : (b.setDataWord a w).mem.wf :=
  Block.wf_setByteAt _ _ _ (Block.wf_setByteAt _ _ _ (Block.wf_setByteAt _ _ _ (b.wf_setByteAt a _ h)))

/-- What a word write leaves alone. -/
theorem Block.setDataWord_keeps (b : Block) (a : Nat) (w : Word) :
    (b.setDataWord a w).buflen = b.buflen ∧ (b.setDataWord a w).msglen = b.msglen ∧
    (b.setDataWord a w).dstlen = b.dstlen ∧ (b.setDataWord a w).ie = b.ie ∧ (b.setDataWord a w).busy = b.busy ∧
    (b.setDataWord a w).done = b.done ∧ (b.setDataWord a w).err = b.err ∧ (b.setDataWord a w).ovr = b.ovr ∧
    (b.setDataWord a w).wbusy = b.wbusy ∧ (b.setDataWord a w).cmdlast = b.cmdlast ∧
    (b.setDataWord a w).errcode = b.errcode ∧ (b.setDataWord a w).res = b.res := by
  have h (c : Block) (a : Nat) (v : Byte) := c.setByteAt_keeps a v
  simp only [Block.setDataWord]
  simp only [h, and_self]

/-- A byte of BUF, DST or MSG reads as written. -/
theorem Block.byteAt_setByteAt_self (b : Block) (a : Nat) (v : Byte) (h : b.mem.wf)
    (ha : isBufferByte a = true ∨ isRegByte a = true) : (b.setByteAt a v).byteAt a = v := by
  rcases b.setByteAt_cases a v with ⟨hb, he⟩ | ⟨hb, hr, he⟩ | ⟨hb, hr, -⟩
  · simp [he, Block.byteAt, hb, b.mem.read_write_self a v h.1]
  · simp only [he, Block.byteAt, hb, hr, Bool.false_eq_true, if_false, if_true, Block.reg_setReg_self]
    exact valByte_setValByte_self _ _ _ (Nat.mod_lt _ (by omega))
  · simp [hb, hr] at ha

/-- The commands' writes of a prefix of BUF keep the canonical form. -/
theorem Block.wf_putBuf (b : Block) (s : List Byte) (h : b.mem.wf) (hs : s.length ≤ bufCapacity) :
    (b.putBuf (some s)).mem.wf :=
  Memory.wf_writeBytes s b.mem bufBase h fun k hk => isBufferByte_buf k (Nat.lt_of_lt_of_le hk hs)

/-! ## The address map -/

theorem windowWord_table : ∀ q : Fin 1024,
    windowWord (BitVec.ofNat 12 (4 * q.val)) =
      if q.val = 0 then .id else if q.val = 1 then .ctrl else if q.val = 2 then .status else if q.val = 3 then .cmd
      else if q.val = 4 then .errcode else if q.val = 5 then .result else if q.val = 6 then .buflen
      else if q.val = 7 then .msglen else if q.val = 8 then .dstlen
      else if 64 ≤ q.val ∧ q.val < 96 ∨ 128 ≤ q.val ∧ q.val < 192 ∨ 256 ≤ q.val ∧ q.val < 768 then .data
      else .reserved := by
  decide +kernel

/-- What each aligned word of the window holds, by its offset (R72). -/
theorem windowWord_aligned (o : Offset) (h : o.toNat % 4 = 0) :
    windowWord o =
      if o.toNat = 0x000 then .id else if o.toNat = 0x004 then .ctrl else if o.toNat = 0x008 then .status
      else if o.toNat = 0x00C then .cmd else if o.toNat = 0x010 then .errcode else if o.toNat = 0x014 then .result
      else if o.toNat = 0x018 then .buflen else if o.toNat = 0x01C then .msglen else if o.toNat = 0x020 then .dstlen
      else if 0x100 ≤ o.toNat ∧ o.toNat < 0x180 ∨ 0x200 ≤ o.toNat ∧ o.toNat < 0x300 ∨
        0x400 ≤ o.toNat ∧ o.toNat < 0xC00 then .data
      else .reserved := by
  have ht := windowWord_table ⟨o.toNat / 4, by have := o.isLt; omega⟩
  have e : 4 * (o.toNat / 4) = o.toNat := by omega
  have ek (k : Nat) : (o.toNat / 4 = k) = (o.toNat = 4 * k) := propext (by omega)
  have el (k : Nat) : (k ≤ o.toNat / 4) = (4 * k ≤ o.toNat) := propext (by omega)
  have eg (k : Nat) : (o.toNat / 4 < k) = (o.toNat < 4 * k) := propext (by omega)
  simp only [e, BitVec.ofNat_toNat, BitVec.setWidth_eq, ek, el, eg, Nat.reduceMul] at ht
  exact ht

end Sys2Proof.Machine
end

