-- ==== Sys2Proof/Laws/Words.lean ====
section
/-!
SUPPORT. Sys2Proof/Laws/Words.lean: the packing of Machine words is R109's formula.
-/

namespace Sys2Proof.Machine

theorem shift_fields (o d a b c m : Nat) :
    ((((m <<< 5 ||| c) <<< 5 ||| b) <<< 5 ||| a) <<< 5 ||| d) <<< 8 ||| o =
      o ||| d <<< 8 ||| a <<< 13 ||| b <<< 18 ||| c <<< 23 ||| m <<< 28 := by
  have h (x i j : Nat) : x <<< i <<< j = x <<< (i + j) := (Nat.shiftLeft_add x i j).symm
  have r (u v w x y z : Nat) : u ||| v ||| w ||| x ||| y ||| z = z ||| y ||| x ||| w ||| v ||| u := by ac_rfl
  simp only [Nat.shiftLeft_or_distrib, h, Nat.reduceAdd]
  exact r ..

/-- A packed word is OPC | RD<<8 | RS1<<13 | RS2<<18 | RS3<<23 | MODE<<28. -/
theorem pack_eq_cmdWord (opc : BitVec 8) (mode : BitVec 4) (rd rs1 rs2 rs3 : Reg) :
    pack opc mode rd rs1 rs2 rs3 = cmdWord opc.toNat mode.toNat rd rs1 rs2 rs3 := by
  apply BitVec.eq_of_toNat_eq
  have h := (pack opc mode rd rs1 rs2 rs3).isLt
  have e := shift_fields opc.toNat rd.val rs1.val rs2.val rs3.val mode.toNat
  have f : (pack opc mode rd rs1 rs2 rs3).toNat =
      ((((mode.toNat <<< 5 ||| rs3.val) <<< 5 ||| rs2.val) <<< 5 ||| rs1.val) <<< 5 ||| rd.val) <<< 8 ||| opc.toNat := by
    simp only [pack, BitVec.toNat_append]; rfl
  rw [cmdWord, BitVec.toNat_ofNat, ← e, ← f, Nat.mod_eq_of_lt h]

end Sys2Proof.Machine
end

