-- ==== Sys2Proof/Tests/Slice0.lean ====
section
/-!
SUPPORT. Sys2Proof/Tests/Slice0.lean: the model's own tests. Expected values come from the spec: the words of R109 and
95_test_vectors.md §2.1, the table of R105, and the vectors named in each test's comment. Then one witness per obligation with
hypotheses: concrete states and operands that meet them, for each clause.
-/

namespace Sys2Proof.Tests

open Sys2Proof Sys2Proof.Machine

set_option Elab.async false

/-! ## Helpers -/

/-- The reset state with some registers set. -/
def stR (ws : List (Reg × Val)) : State := { State.reset with toBlock := Block.reset.setRegs ws }

/-- The same with bytes in BUF, and BUFLEN. -/
def stB (ws : List (Reg × Val)) (buf : List Byte) : State :=
  { State.reset with toBlock := (Block.reset.setRegs ws).putBuf (some buf) }

/-- The same with MSGLEN and DSTLEN. -/
def stL (ws : List (Reg × Val)) (buf : List Byte) (msglen : BitVec 16) (dst : List Byte) : State :=
  { State.reset with toBlock := { (Block.reset.setRegs ws).putBuf (some buf) with
    mem := (((Block.reset.setRegs ws).putBuf (some buf)).mem).writeBytes dstBase dst
    msglen := msglen
    dstlen := BitVec.ofNat 8 dst.length } }

/-- The command word w in flight, on a state. -/
def flying (s : State) (w : Word) : State := { s with toBlock := s.toBlock.accept w }

/-- The events ahead, on a state. -/
def ahead (s : State) (es : List Event) : State := { s with script := es }

/-- A value of the next state. -/
def got {α : Type} (o : Host.Outcome State Fault Refusal) (f : State → α) : Option α :=
  match o with
  | .next t => some (f t)
  | .fault _ => none
  | .refused _ => none

/-- What a value of the next state says. -/
theorem next_of_got {o : Host.Outcome State Fault Refusal} {f : State → Bool} (h : got o f = some true) :
    ∃ t, o = .next t ∧ f t = true := by
  cases o with
  | next t => exact ⟨t, rfl, Option.some.inj h⟩
  | fault _ => cases h
  | refused _ => cases h

/-- That there is a next state. -/
theorem answers_of_got {o : Host.Outcome State Fault Refusal} (h : got o (fun _ => true) = some true) : ∃ t, o = .next t :=
  (next_of_got h).imp fun _ ht => ht.1

/-- x[i], x[i+1], x[i+2] and the error code. -/
def tripleAt (i : Reg) (t : State) : Val × Val × Val × BitVec 4 := (t.reg i, t.reg (i + 1), t.reg (i + 2), t.errcode)

/-- BUF[0..BUFLEN) as a number, BUFLEN and the error code. -/
def bufAt (t : State) : Nat × Nat × BitVec 4 := (os2ip t.bufBytes, t.buflen.toNat, t.errcode)

def gx : Val := 0x79BE667EF9DCBBAC55A06295CE870B07029BFCDB2DCE28D959F2815B16F81798
def gy : Val := 0x483ADA7726A3C4655DA4FBFC0E1108A8FD17B448A68554199C47D08FFB10D4B8
def x2 : Val := 0xC6047F9441ED7D6D3045406E95C07CD85C778E4B8CEF3CA7ABAC09B95C709EE5
def y2 : Val := 0x1AE168FEA63DC339A3C58419466CEAEEF7F632653266D0E1236431A950CFE52A
def x3 : Val := 0xF9308A019258C31049344F85F89D5229B531C845836F99B08601F113BCE036F9
def y3 : Val := 0x388F7B0F632DE8140FE337E62A37F3566500A99934C2231B6CB9FD7584B8E672
/-- The triple PDBL(G) of V-P1. -/
def dX : Val := 0x7D152C041EA8E1DC2191843D1FA9DB55B68F88FEF695E2C791D40444B365AFC2
def dY : Val := 0x56915849F52CC8F76F5FD7E4BF60DB4A43BF633E1B1383F85FE89164BFADCBDB
def dZ : Val := 0x9075B4EE4D4788CABB49F7F81C221151FA2F68914D0AA833388FA11FF621A970
/-- p + 1, p and n as register values. -/
def vp : Val := 0xFFFFFFFFFFFFFFFFFFFFFFFFFFFFFFFFFFFFFFFFFFFFFFFFFFFFFFFEFFFFFC2F
def vn : Val := 0xFFFFFFFFFFFFFFFFFFFFFFFFFFFFFFFEBAAEDCE6AF48A03BBFD25E8CD0364141

/-! ## Well-formedness: one ill-formed term per check (R101) -/

theorem test_wf_refuses_triple_rd : (Instr.pdbl 30 0).wf = false := by decide
theorem test_wf_refuses_triple_rs1 : (Instr.pencC 31).wf = false := by decide
theorem test_wf_refuses_triple_rs2 : (Instr.peq 0 30).wf = false := by decide
theorem test_wf_refuses_quad : (Instr.keygen 29).wf = false := by decide
theorem test_wf_refuses_const : (Instr.ldc 0 7).wf = false := by decide
theorem test_wf_takes_the_limits :
    (Instr.psub 29 29 29).wf = true ∧ (Instr.keygen 28).wf = true ∧ (Instr.ldc 31 6).wf = true := by decide

/-! ## Decoding: every command by a word written from R105, R109 and 95 §2 -/

/-- V-C0, V-L0 to V-L6. -/
theorem test_decode_engine :
    decode 0x00000000 = .ok .nop ∧ decode 0x00000101 = .ok (.ldc 1 0) ∧ decode 0x00002201 = .ok (.ldc 2 1) ∧
    decode 0x00006401 = .ok (.ldc 4 3) ∧ decode 0x0000C701 = .ok (.ldc 7 6) := by decide

/-- V-M1, V-M4a, V-M4b, V-M5, V-M12a, V-M13, V-M19a, and a word with a different register in every field:
0x10 | 1<<8 | 2<<13 | 4<<18 | 8<<23. -/
theorem test_decode_modular :
    decode 0x00082310 = .ok (.modmul 3 1 2 0) ∧ decode 0x00082311 = .ok (.modmulS 3 1 2 0) ∧
    decode 0x00042110 = .ok (.modmul 1 1 1 0) ∧ decode 0x00002312 = .ok (.modinv 3 1 0) ∧
    decode 0x00002313 = .ok (.modinvS 3 1 0) ∧ decode 0x00082314 = .ok (.modexp 3 1 2 0) ∧
    decode 0x00082315 = .ok (.modexpS 3 1 2 0) ∧ decode 0x04104110 = .ok (.modmul 1 2 4 8) := by decide

/-- V-P1, V-P3, V-P7, V-P8, V-P10, V-P15. -/
theorem test_decode_point :
    decode 0x00006021 = .ok (.pdbl 0 3) ∧ decode 0x00186020 = .ok (.padd 0 3 6) ∧ decode 0x00006022 = .ok (.pneg 0 3) ∧
    decode 0x00186023 = .ok (.psub 0 3 6) ∧ decode 0x00006024 = .ok (.paff 0 3) ∧
    decode 0x00186320 = .ok (.padd 3 3 6) := by decide

/-- V-S1, V-S2, V-S13. -/
theorem test_decode_scalar :
    decode 0x00012032 = .ok (.pmulg 0 9) ∧ decode 0x00246030 = .ok (.pmul 0 3 9) ∧
    decode 0x00246031 = .ok (.pmulS 0 3 9) ∧ decode 0x00012033 = .ok (.pmulgS 0 9) := by decide

/-- V-E1, V-E3, V-E5, V-E8, V-E16, V-E18, V-E20. -/
theorem test_decode_encoding :
    decode 0x00006040 = .ok (.pencC 3) ∧ decode 0x10006040 = .ok (.pencU 3) ∧ decode 0x20006040 = .ok (.pencX 3) ∧
    decode 0x00000041 = .ok (.pdec 0) ∧ decode 0x10000041 = .ok (.pdecX 0) ∧ decode 0x00006042 = .ok (.pvalid 3) ∧
    decode 0x00186043 = .ok (.peq 3 6) := by decide

/-- V-K1, V-C1, V-C6, V-C8, V-C12. -/
theorem test_decode_ecdsa :
    decode 0x00001450 = .ok (.keygen 20) ∧ decode 0x01882051 = .ok (.ecdsaSign 1 2 3) ∧
    decode 0x10082051 = .ok (.ecdsaSignR 1 2) ∧ decode 0x00080453 = .ok (.ecdsaRecover 4 2) ∧
    decode 0x00088052 = .ok (.ecdsaVerify 4 2) := by decide

/-- V-B1, V-B2, V-T1, V-T2, V-T4, V-T5. -/
theorem test_decode_schnorr :
    decode 0x00082054 = .ok (.schnorrSign 1 2) ∧ decode 0x00014055 = .ok (.schnorrVerify 10) ∧
    decode 0x10014B56 = .ok (.tapTweakN 11 10) ∧ decode 0x00094B56 = .ok (.tapTweak 11 10 2) ∧
    decode 0x11802057 = .ok (.tapSignN 1 3) ∧ decode 0x10014058 = .ok (.tapVerifyN 10) ∧
    decode 0x01882057 = .ok (.tapSign 1 2 3) ∧ decode 0x00094058 = .ok (.tapVerify 10 2) := by decide

/-- V-H0. -/
theorem test_decode_hash : decode 0x00000060 = .ok (.h2c 0) := by decide

/-- V-I1, V-I2, V-I4 to V-I7, and NOP with RD = 1, which V-I3 means (its word is 0x00000100; see NOTES.md). -/
theorem test_decode_rejects :
    decode 0x0000E001 = .error .range ∧ decode 0x00000002 = .error .opcode ∧ decode 0x00000100 = .error .unusedField ∧
    decode 0x00001E21 = .error .range ∧ decode 0x00001D50 = .error .range ∧ decode 0x30000040 = .error .mode ∧
    decode 0x10000310 = .error .mode := by decide

/-- The `match` and `mask` columns of R105, first half. -/
theorem test_rows_match_mask_first :
    (rows.take 19).map (fun r => (r.pattern, r.mask)) =
      [ (0x00000000, 0xFFFFFFFF), (0x00000001, 0xFFFC00FF), (0x00000010, 0xF00000FF), (0x00000011, 0xF00000FF),
        (0x00000012, 0xF07C00FF), (0x00000013, 0xF07C00FF), (0x00000014, 0xF00000FF), (0x00000015, 0xF00000FF),
        (0x00000020, 0xFF8000FF), (0x00000021, 0xFFFC00FF), (0x00000022, 0xFFFC00FF), (0x00000023, 0xFF8000FF),
        (0x00000024, 0xFFFC00FF), (0x00000030, 0xFF8000FF), (0x00000031, 0xFF8000FF), (0x00000032, 0xFFFC00FF),
        (0x00000033, 0xFFFC00FF), (0x00000040, 0xFFFC1FFF), (0x10000040, 0xFFFC1FFF) ] := by decide

/-- The `match` and `mask` columns of R105, second half. -/
theorem test_rows_match_mask_second :
    (rows.drop 19).map (fun r => (r.pattern, r.mask)) =
      [ (0x20000040, 0xFFFC1FFF), (0x00000041, 0xFFFFE0FF), (0x10000041, 0xFFFFE0FF), (0x00000042, 0xFFFC1FFF),
        (0x00000043, 0xFF801FFF), (0x00000050, 0xFFFFE0FF), (0x00000051, 0xF0001FFF), (0x10000051, 0xFF801FFF),
        (0x00000052, 0xFF801FFF), (0x00000053, 0xFF83E0FF), (0x00000054, 0xFF801FFF), (0x00000055, 0xFFFC1FFF),
        (0x00000056, 0xFF8000FF), (0x10000056, 0xFFFC00FF), (0x00000057, 0xF0001FFF), (0x10000057, 0xF07C1FFF),
        (0x00000058, 0xFF801FFF), (0x10000058, 0xFFFC1FFF), (0x00000060, 0xFFFFE0FF) ] := by decide

theorem test_rows_are_38 : rows.length = 38 := by decide

/-! ## One command each, on the vectors of 95 §2 -/

/-- V-C0: STATUS reads 2 after NOP. -/
theorem test_nop : got (step (flying State.reset 0)) (fun t => t.statusWord) = some 2 := by decide
/-- V-I1. -/
theorem test_illegal_word :
    got (step (flying State.reset 0x0000E001)) (fun t => (t.errcode, t.err, t.done, t.busy, t.cmdlast, t.regs == Block.reset.regs)) =
      some (1, true, true, false, 0x0000E001, true) := by decide +kernel
/-- V-L2, V-L3. -/
theorem test_ldc_p : got (exec (.ldc 3 2) State.reset) (fun t => t.reg 3) = some vp := by decide +kernel
theorem test_ldc_n : got (exec (.ldc 4 3) State.reset) (fun t => t.reg 4) = some vn := by decide +kernel

/-- V-M2 and V-M4b: the exact 512-bit product, and a source that is the destination. -/
theorem test_modmul_exact :
    got (exec (.modmul 3 1 2 0) (stR [(0, vp), (1, -1), (2, -1)])) (fun t => (t.reg 3, t.errcode)) =
      some (0x000000000000000000000000000000000000000000000001000007A0000E8900, 0) := by decide +kernel
theorem test_modmulS_overlap :
    got (exec (.modmulS 1 1 1 0) (stR [(0, 7), (1, 0x10)])) (fun t => (t.reg 1, t.errcode)) = some (4, 0) := by decide +kernel
/-- V-M11, V-M10. -/
theorem test_modinv_even_modulus :
    got (exec (.modinv 3 1 0) (stR [(0, 0x10), (1, 3)])) (fun t => (t.reg 3, t.errcode)) = some (0xB, 0) := by decide +kernel
theorem test_modinv_of_zero :
    got (exec (.modinv 3 1 0) (stR [(0, 5), (3, 9)])) (fun t => (t.reg 3, t.errcode)) = some (9, 2) := by decide +kernel
/-- V-M12, for the .S form; V-M9. -/
theorem test_modinvS_mod_n :
    got (exec (.modinvS 3 1 0) (stR [(0, vn), (1, 7)])) (fun t => t.reg 3) =
      some 0x49249249249249249249249249249248C79FACD43214C011123C1B03A93412A5 := by decide +kernel
theorem test_modinvS_modulus_one :
    got (exec (.modinvS 3 1 0) (stR [(0, 1), (3, 9)])) (fun t => (t.reg 3, t.errcode)) = some (0, 0) := by decide +kernel
/-- V-M19, V-M15. -/
theorem test_modexp_wide :
    got (exec (.modexp 3 1 2 0) (stR [(0, vn), (1, -1), (2, -1)])) (fun t => t.reg 3) =
      some 0xD887206ED93083ABECA6F7D85E360EB5E9E0153AE01D5D5F7AC0E2114A240AE7 := by decide +kernel
theorem test_modexp_modulus_one :
    got (exec (.modexp 3 1 2 0) (stR [(0, 1), (1, 5), (3, 9)])) (fun t => (t.reg 3, t.errcode)) = some (0, 0) := by
  decide +kernel
/-- V-M14, V-M18, for the .S form. -/
theorem test_modexpS_zero_power :
    got (exec (.modexpS 3 1 2 0) (stR [(0, 7)])) (fun t => t.reg 3) = some 1 := by decide +kernel
theorem test_modexpS_modulus_zero :
    got (exec (.modexpS 3 1 2 0) (stR [(1, 3), (2, 5)])) (fun t => (t.reg 3, t.errcode)) = some (0, 2) := by decide +kernel

/-- V-P3 over V-P15's overlap; V-P14. -/
theorem test_padd_overlap :
    got (exec (.padd 3 3 6) (stR [(3, gx), (4, gy), (5, 1), (6, x2), (7, y2), (8, 1)])) (tripleAt 3) =
      some (0x3E61E957CB7EB9252155722D37056B581CACD9949CD7DAEBA682D81EE829826D,
        0xF364CE2B4C0EC3D2313DE4A2BB95F9329AAFA927CB6A09C0FAECA00ABCB1808A,
        0x4C4619154810C1C0DAA4DDD8C73971D159DB91705F2113CE51B9885E4578874D, 0) := by decide +kernel
theorem test_padd_equal_x :
    got (exec (.padd 0 3 6) (stR [(3, 5), (4, 1), (5, 1), (6, 5), (7, 2), (8, 1)])) (tripleAt 0) = some (1, 1, 0, 0) := by
  decide +kernel
/-- V-P1, V-P12. -/
theorem test_pdbl_generator :
    got (exec (.pdbl 0 3) (stR [(3, gx), (4, gy), (5, 1)])) (tripleAt 0) = some (dX, dY, dZ, 0) := by decide +kernel
theorem test_pdbl_zero_y :
    got (exec (.pdbl 0 3) (stR [(3, 5), (5, 1)])) (tripleAt 0) = some (1, 1, 0, 0) := by decide +kernel
/-- V-P7; R165: Y ≡ 0 stays 0. -/
theorem test_pneg_generator :
    got (exec (.pneg 0 3) (stR [(3, gx), (4, gy), (5, 1)])) (tripleAt 0) =
      some (gx, 0xB7C52588D95C3B9AA25B0403F1EEF75702E84BB7597AABE663B82F6F04EF2777, 1, 0) := by decide +kernel
theorem test_pneg_zero_y :
    got (exec (.pneg 0 3) (stR [(3, 5), (4, vp), (5, 1)])) (tripleAt 0) = some (5, 0, 1, 0) := by decide +kernel
/-- V-P9, V-P8. -/
theorem test_psub :
    got (exec (.psub 0 3 6) (stR [(3, x3), (4, y3), (5, 1), (6, gx), (7, gy), (8, 1)])) (tripleAt 0) =
      some (0x6DF2D4CFEBB0E5C5CB86D90B4D2949E2007B510EF9C7A501C7A9374EF8D22822,
        0x7EED3C6ECF08B7976E3A759D1BFF0020FC50DF75839019B0E8863FE3A738EC8F,
        0x808DDC7D6783F89C0C6C130FD5E9B8DD4D6A3495AA5E8F28D3F090465A17DCCE, 0) := by decide +kernel
theorem test_psub_self :
    got (exec (.psub 0 3 3) (stR [(3, gx), (4, gy), (5, 1)])) (tripleAt 0) = some (1, 1, 0, 0) := by decide +kernel
/-- V-P10, V-P16. -/
theorem test_paff :
    got (exec (.paff 0 3) (stR [(3, dX), (4, dY), (5, dZ)])) (tripleAt 0) = some (x2, y2, 1, 0) := by decide +kernel
theorem test_paff_reduces_first :
    got (exec (.paff 0 3) (stR [(3, vp + 1), (4, vp + 2), (5, vp + 1)])) (tripleAt 0) = some (1, 2, 1, 0) := by
  decide +kernel

/-- V-S9, V-S12. -/
theorem test_pmul_jacobian :
    got (exec (.pmul 0 3 9) (stR [(3, dX), (4, dY), (5, dZ), (9, 2)])) (tripleAt 0) =
      some (0xE493DBF1C10D80F3581E4904930B1404CC6C13900EE0758474FA94ABE8C4CD13,
        0x51ED993EA0D455B75642E2098EA51448D967AE33BFBDFE40CFE97BDC47739922, 1, 0) := by decide +kernel
theorem test_pmul_off_curve :
    got (exec (.pmul 0 3 9) (stR [(3, 1), (4, 1), (5, 1)])) (tripleAt 0) = some (0, 0, 0, 2) := by decide +kernel
/-- V-S8, for the .S form. -/
theorem test_pmulS :
    got (exec (.pmulS 0 3 9) (stR [(3, x3), (4, y3), (5, 1), (9, 5)])) (tripleAt 0) =
      some (0xD7924D4F7D43EA965A465AE3095FF41131E5946F3C85F79E44ADBCF8E27E080E,
        0x581E2872A86C72A683842EC228CC6DEFEA40AF2BD896D3A5C504DC9FF6A26B58, 1, 0) := by decide +kernel
/-- V-S7, V-S6. -/
theorem test_pmulg_top :
    got (exec (.pmulg 0 9) (stR [(9, -1)])) (tripleAt 0) =
      some (0x9166C289B9F905E55F9E3DF9F69D7F356B4A22095F894F4715714AA4B56606AF,
        0xF181EB966BE4ACB5CFF9E16B66D809BE94E214F06C93FD091099AF98499255E7, 1, 0) := by decide +kernel
theorem test_pmulg_n_plus_one :
    got (exec (.pmulg 9 9) (stR [(9, vn + 1)])) (tripleAt 9) = some (gx, gy, 1, 0) := by decide +kernel
/-- V-S5, for the .S form. -/
theorem test_pmulgS_n : got (exec (.pmulgS 0 9) (stR [(9, vn)])) (tripleAt 0) = some (1, 1, 0, 0) := by decide +kernel

/-- V-E2, V-E3. -/
theorem test_pencC_odd :
    got (exec (.pencC 3) (stR [(3, gx), (4, vp - gy), (5, 1)])) bufAt =
      some (0x0379BE667EF9DCBBAC55A06295CE870B07029BFCDB2DCE28D959F2815B16F81798, 33, 0) := by decide +kernel
theorem test_pencC_infinity : got (exec (.pencC 3) (stB [] [9, 9])) bufAt = some (0, 33, 0) := by decide +kernel
/-- V-E4. -/
theorem test_pencU :
    got (exec (.pencU 3) (stR [(3, dX), (4, dY), (5, dZ)])) bufAt =
      some (0x04C6047F9441ED7D6D3045406E95C07CD85C778E4B8CEF3CA7ABAC09B95C709EE51AE168FEA63DC339A3C58419466CEAEEF7F632653266D0E1236431A950CFE52A, 65, 0) := by
  decide +kernel
/-- V-E6, V-E7. -/
theorem test_pencX_odd :
    got (exec (.pencX 3) (stR [(3, gx), (4, vp - gy), (5, 1)])) (fun t => (bufAt t, t.res)) =
      some ((0x79BE667EF9DCBBAC55A06295CE870B07029BFCDB2DCE28D959F2815B16F81798, 32, 0), true) := by decide +kernel
theorem test_pencX_infinity : got (exec (.pencX 3) (stR [])) bufAt = some (0, 0, 5) := by decide +kernel
/-- V-E9, V-E13. -/
theorem test_pdec_odd :
    got (exec (.pdec 0) (stB [] (0x03 :: be32 gx.toNat))) (tripleAt 0) = some (gx, vp - gy, 1, 0) := by decide +kernel
theorem test_pdec_bad_prefix :
    got (exec (.pdec 0) (stB [] (0x05 :: be32 gx.toNat))) (tripleAt 0) = some (0, 0, 0, 4) := by decide +kernel
/-- V-E18, V-E19. -/
theorem test_pdecX :
    got (exec (.pdecX 0) (stB [] (be32 gx.toNat))) (tripleAt 0) = some (gx, gy, 1, 0) := by decide +kernel
theorem test_pdecX_no_point :
    got (exec (.pdecX 0) (stB [] (List.replicate 32 0))) (tripleAt 0) = some (0, 0, 0, 2) := by decide +kernel
/-- V-E20. -/
theorem test_pvalid_jacobian :
    got (exec (.pvalid 3) (stR [(3, dX), (4, dY), (5, dZ)])) (fun t => t.res) = some true := by decide +kernel
theorem test_pvalid_off_curve :
    got (exec (.pvalid 3) (stR [(3, gx), (4, gy + 1), (5, 1)])) (fun t => t.res) = some false := by decide +kernel
/-- R198's example, V-E21. -/
theorem test_peq_representatives :
    got (exec (.peq 3 6) (stR [(3, dX), (4, dY), (5, dZ), (6, x2), (7, y2), (8, 1)])) (fun t => t.res) = some true := by
  decide +kernel
theorem test_peq_negation :
    got (exec (.peq 3 6) (stR [(3, gx), (4, gy), (5, 1), (6, gx), (7, vp - gy), (8, 1)])) (fun t => t.res) = some false := by
  decide +kernel

/-- V-K1, with the rejected draw before the accepted one. -/
theorem test_keygen :
    got (exec (.keygen 20) { State.reset with entropy := [-1, 3, 8] }) (fun t => (t.reg 20, tripleAt 21 t, t.entropy)) =
      some (3, (x3, y3, 1, 0), [8]) := by decide +kernel
/-- V-C2, V-C4. -/
theorem test_ecdsaSign :
    got (exec (.ecdsaSign 1 2 3) (stR [(1, 2), (2, 0x1234), (3, 3)])) bufAt =
      some (0xF9308A019258C31049344F85F89D5229B531C845836F99B08601F113BCE036F9FB75B1566190820ADB783503FB138C1B61B0CF25E7629BDEEE9CC03C18A795CD00, 65, 0) := by
  decide +kernel
theorem test_ecdsaSign_secret_n :
    got (exec (.ecdsaSign 1 2 3) (stR [(1, vn), (2, 1), (3, 1)])) bufAt = some (0, 0, 2) := by decide +kernel
/-- V-C3: the core with `ECDSA_LOW_S` = true. -/
theorem test_ecdsaCore_low_s :
    (ecdsaCore true 2 0x1234 3).toOption.map os2ip =
      some 0xF9308A019258C31049344F85F89D5229B531C845836F99B08601F113BCE036F9048A4EA99E6F7DF52487CAFC04EC73E358FE0DC0C7E6045CD1359E50B78EAB7401 := by
  decide +kernel
/-- V-C6, V-C7. -/
theorem test_ecdsaSignR :
    got (exec (.ecdsaSignR 1 2) { stR [(1, 2), (2, 0x1234)] with entropy := [0, 3] }) (fun t => (bufAt t, t.entropy)) =
      some ((0xF9308A019258C31049344F85F89D5229B531C845836F99B08601F113BCE036F9FB75B1566190820ADB783503FB138C1B61B0CF25E7629BDEEE9CC03C18A795CD00, 65, 0), []) := by
  decide +kernel
theorem test_ecdsaSignR_no_draw :
    got (exec (.ecdsaSignR 1 2) { State.reset with entropy := [5] }) (fun t => (t.errcode, t.entropy)) = some (2, [5]) := by
  decide +kernel

/-- The signature of V-C2, with byte 64 given. -/
def sigC2 (recid : Byte) : List Byte :=
  i2osp 0xF9308A019258C31049344F85F89D5229B531C845836F99B08601F113BCE036F9FB75B1566190820ADB783503FB138C1B61B0CF25E7629BDEEE9CC03C18A795CD 64 ++ [recid]

/-- V-C8, V-C9. -/
theorem test_ecdsaRecover :
    got (exec (.ecdsaRecover 4 2) (stB [(2, 0x1234)] (sigC2 0))) (fun t => (tripleAt 4 t, t.res)) =
      some ((x2, y2, 1, 0), true) := by decide +kernel
theorem test_ecdsaRecover_bad_recid :
    got (exec (.ecdsaRecover 4 2) (stB [(2, 0x1234)] (sigC2 4))) (fun t => (tripleAt 4 t, t.res)) =
      some ((1, 1, 0, 0), false) := by decide +kernel
/-- V-C12, V-C15. -/
theorem test_ecdsaVerify :
    got (exec (.ecdsaVerify 4 2) (stB [(2, 0x1234), (4, dX), (5, dY), (6, dZ)] (sigC2 0))) (fun t => t.res) = some true := by
  decide +kernel
theorem test_ecdsaVerify_wrong_recid :
    got (exec (.ecdsaVerify 4 2) (stB [(2, 0x1234), (4, x2), (5, y2), (6, 1)] (sigC2 1))) (fun t => t.res) = some false := by
  decide +kernel

/-- V-B1 (BIP340 vector 0), V-B6 (an empty message). -/
theorem test_schnorrSign :
    got (exec (.schnorrSign 1 2) (stL [(1, 3)] [] 32 [])) bufAt =
      some (0xE907831F80848D1069A5371B402410364BDF1C5F8307B0084C55F1CE2DCA821525F66A4A85EA8B71E482A74F382D2CE5EBEEE8FDB2172F477DF4900D310536C0, 64, 0) := by
  decide +kernel
theorem test_schnorrSign_empty :
    got (exec (.schnorrSign 1 2) (stR [(1, 7), (2, 0x1234)])) bufAt =
      some (0x1D187FC93667F9E44E59682C708CD823254F51A52B9A316DF4709C28FC51FB8639B8522C5BB3CD3DAC89044305BB674DFA9F65EB7197F1855DC819431CAC34F5, 64, 0) := by
  decide +kernel

/-- The signatures of V-B1 and V-T4. -/
def sigB1 : List Byte :=
  i2osp 0xE907831F80848D1069A5371B402410364BDF1C5F8307B0084C55F1CE2DCA821525F66A4A85EA8B71E482A74F382D2CE5EBEEE8FDB2172F477DF4900D310536C0 64
def sigT4 : List Byte :=
  i2osp 0xE05F8B968C6737D6DFAD8FE6D8A37CC4DD88EEC7936574EF9A33B97D91C567DFF8B52C7730DBBC218AEB14AE8F37F7F1F4BB82617622D4416267FA6E17C30DFD 64
/-- The signature of V-T5. -/
def sigT5 : List Byte :=
  i2osp 0xCE756730CEA01803C5D99008EE3DBF2F0594044C71E8FDB3F37B70AA0C5B71256A23F7CF45CE7E1E4C97D2ED233C8F40B7411C79E9349ED863CFA8F1A5BBC4A7 64

/-- V-B2, V-B4. -/
theorem test_schnorrVerify :
    got (exec (.schnorrVerify 10) (stL [(10, x3)] sigB1 32 [])) (fun t => t.res) = some true := by decide +kernel
theorem test_schnorrVerify_no_point :
    got (exec (.schnorrVerify 10) (stL [] sigB1 32 [])) (fun t => (t.res, t.errcode)) = some (false, 0) := by decide +kernel
/-- V-T2. -/
theorem test_tapTweak :
    got (exec (.tapTweak 11 10 2) (stR [(10, x3)])) (fun t => (t.reg 11, t.res, t.errcode)) =
      some (0xDAC7E66A490D4B43D29BA17E2B2C2422FDD19C105F438803485FACEF8AB6824E, true, 0) := by decide +kernel
/-- V-T1, V-T3. -/
theorem test_tapTweakN :
    got (exec (.tapTweakN 11 10) (stR [(10, x3)])) (fun t => (t.reg 11, t.res, t.errcode)) =
      some (0x418C46636D9E1A683F58E35B42336E776FDCC3B2D4E39E7A0BF1AB0716E3C5FA, false, 0) := by decide +kernel
theorem test_tapTweakN_no_point :
    got (exec (.tapTweakN 11 10) (stR [(11, 9)])) (fun t => (t.reg 11, t.errcode)) = some (9, 2) := by decide +kernel
/-- V-T5. -/
theorem test_tapSign :
    got (exec (.tapSign 1 2 3) (stL [(1, 3), (2, 0xABCD)] [] 32 [])) (fun t => (t.bufBytes, t.errcode)) =
      some (sigT5, 0) := by decide +kernel
/-- V-T4. -/
theorem test_tapSignN :
    got (exec (.tapSignN 1 3) (stL [(1, 3)] [] 32 [])) (fun t => (t.bufBytes, t.errcode)) = some (sigT4, 0) := by
  decide +kernel
/-- V-T5, V-T6. -/
theorem test_tapVerify :
    got (exec (.tapVerify 10 2) (stL [(10, x3), (2, 0xABCD)] sigT5 32 [])) (fun t => t.res) = some true := by decide +kernel
theorem test_tapVerify_wrong_root :
    got (exec (.tapVerify 10 2) (stL [(10, x3), (2, 0xABCE)] sigT5 32 [])) (fun t => t.res) = some false := by decide +kernel
/-- V-T4, V-T6. -/
theorem test_tapVerifyN :
    got (exec (.tapVerifyN 10) (stL [(10, x3)] sigT4 32 [])) (fun t => t.res) = some true := by decide +kernel
theorem test_tapVerifyN_rooted :
    got (exec (.tapVerifyN 10) (stL [(10, x3)] sigT5 32 [])) (fun t => t.res) = some false := by decide +kernel

/-- "QUUX-V01-CS02-with-secp256k1_XMD:SHA-256_SSWU_RO_" (95 §2.7). -/
def quux : List Byte :=
  i2osp 0x515555582D5630312D435330322D776974682D736563703235366B315F584D443A5348412D3235365F535357555F524F5F 49

/-- V-H0 (the RFC 9380 vector of the empty message), V-H2. -/
theorem test_h2c :
    got (exec (.h2c 0) (stL [] [] 0 quux)) (tripleAt 0) =
      some (0xC1CAE290E291AEE617EBAEF1BE6D73861479C48B841EABA9B7B5852DDFEB1346,
        0x64FA678E07AE116126F08B022A94AF6DE15985C996C3A91B64C406A960E51067, 1, 0) := by decide +kernel
theorem test_h2c_size_first : got (exec (.h2c 0) (stL [] [] 1025 [])) (tripleAt 0) = some (0, 0, 0, 3) := by decide +kernel

/-! ## The window -/

/-- P1's writes of x[1] = 2 end with 0x02000000 at 0x43C. -/
theorem test_window_write_two :
    got (step (ahead State.reset [.host (.write 0x43C 0x02000000)])) (fun t => t.reg 1) = some 2 := by decide +kernel
/-- R78's second example. -/
theorem test_window_read_register :
    got (step (ahead (stR [(0, 0x0102030405060708090A0B0C0D0E0F101112131415161718191A1B1C1D1E1F20)])
      [.host (.read 0x400)])) (fun t => t.reply) = some (.word 0x04030201) ∧
    got (step (ahead (stR [(0, 0x0102030405060708090A0B0C0D0E0F101112131415161718191A1B1C1D1E1F20)])
      [.host (.read 0x41C)])) (fun t => t.reply) = some (.word 0x201F1E1D) := by decide +kernel
/-- R74 and R82 at 0x2FC. -/
theorem test_window_reserved_lane :
    got (step (ahead State.reset [.host (.write 0x2FC 0x44332211)])) (fun t => t.mem) =
      some [(0x2FC, 0x11), (0x2FD, 0x22), (0x2FE, 0x33)] := by decide +kernel
/-- R43: a STATUS write of 2 clears DONE alone. -/
theorem test_window_w1c :
    got (step (ahead { State.reset with done := true, err := true } [.host (.write 0x008 2)])) (fun t => t.statusWord) =
      some 4 := by decide +kernel
/-- R312: the soft reset clears IE, whatever bit 0 of the same write was. -/
theorem test_soft_reset :
    got (step (ahead (flying (stR [(5, 7)]) 0x10) [.host (.write 0x004 3)])) (fun t => t.toBlock) = some Block.reset := by
  decide +kernel
/-- A zero byte written leaves no entry, so that equal memories are equal lists. -/
theorem test_memory_canonical : Memory.write [(0x100, 1), (0x103, 2)] 0x100 0 = [(0x103, 2)] := by decide
/-- The reset memory is in canonical form, and so is the reset state. -/
theorem test_reset_memory_wf : State.reset.mem.wf := Memory.wf_reset
/-- SHA-256 of "abc" (FIPS 180-4's example). -/
theorem test_sha256_abc :
    os2ip (sha256 [0x61, 0x62, 0x63]) = 0xBA7816BF8F01CFEA414140DE5DAE2223B00361A396177A9CB410FF61F20015AD := by
  decide +kernel
/-- FIPS 180-4's definition of the constants: k is the first 32 bits of the fractional part of the cube root of the prime q
when c + k / 2^32, cubed, is the greatest such value that is at most q, for the whole part c of the root. -/
theorem test_sha_constants_are_cube_roots :
    ((List.range 312).filter fun q => 2 ≤ q && ((List.range q).drop 2).all fun d => q % d ≠ 0).length = shaK.length ∧
    ((((List.range 312).filter fun q => 2 ≤ q && ((List.range q).drop 2).all fun d => q % d ≠ 0).zip shaK).all fun e =>
      (List.range 7).any fun c => decide ((c * 2 ^ 32 + e.2.toNat) ^ 3 ≤ e.1 * 2 ^ 96 ∧
        e.1 * 2 ^ 96 < (c * 2 ^ 32 + e.2.toNat + 1) ^ 3)) = true := by decide +kernel
/-- The same for the initial value, with square roots of the first eight primes. -/
theorem test_sha_init_is_square_roots :
    (([2, 3, 5, 7, 11, 13, 17, 19].zip
        [shaInit.a, shaInit.b, shaInit.c, shaInit.d, shaInit.e, shaInit.f, shaInit.g, shaInit.h]).all fun e =>
      (List.range 5).any fun c => decide ((c * 2 ^ 32 + e.2.toNat) ^ 2 ≤ e.1 * 2 ^ 64 ∧
        e.1 * 2 ^ 64 < (c * 2 ^ 32 + e.2.toNat + 1) ^ 2)) = true := by decide +kernel
/-- The host's reading of a table word. -/
theorem test_decodeTableWord : decodeTableWord 32 0x00082310 = some (.modmul 3 1 2 0) ∧ decodeTableWord 32 2 = none := by
  decide

/-! ## Witnesses: concrete values that meet the hypotheses of each obligation, clause by clause

Not exhibited, because no known input reaches them (93 U19): a hash value of 0 mod n (k0 = 0 of R222), a tweak t ≥ n or a
tweaked point at ∞ (R227). Where a statement has such a clause, the other clauses are exhibited. -/

theorem witness_DecodeAndEncodeAgree :
    (Instr.psub 29 0 29).wf = true ∧ (Instr.psub 0 30 0).wf = false ∧ (Instr.keygen 28).wf = true ∧
    (Instr.keygen 29).wf = false ∧ (Instr.ldc 31 6).wf = true ∧ (Instr.ldc 31 7).wf = false ∧
    decode 0xF00000FF = .error .opcode ∧ decode 0x0FFFFF10 = .ok (.modmul 31 31 31 31) := by decide

/-- Opcode 0x61, PENC with mode 3, NOP with RS3 = 31, KEYGEN r29; and a state with the first in flight. -/
theorem witness_IllegalWordsComplete :
    opcOf 0x61 ∉ assigned.map Prod.fst ∧
    (opcOf 0x30000040 ∈ assigned.map Prod.fst ∧ (opcOf 0x30000040, modeOf 0x30000040) ∉ assigned) ∧
    (∃ r ∈ rows, r.opc = opcOf 0x0F800000 ∧ r.mode = modeOf 0x0F800000 ∧ r.unusedZero (fieldsOf 0x0F800000) = false) ∧
    (∃ r ∈ rows, r.opc = opcOf 0x00001D50 ∧ r.mode = modeOf 0x00001D50 ∧ r.unusedZero (fieldsOf 0x00001D50) = true ∧
      r.inRange (fieldsOf 0x00001D50) = false) ∧
    (EngineNext (flying State.reset 0x61) ∧ (flying State.reset 0x61).busy = true ∧
      decode (flying State.reset 0x61).cmdlast = .error .opcode) :=
  ⟨by decide, by decide, ⟨rows[0], by simp [rows, engineRows], by decide, by decide, by decide⟩,
    ⟨rows[24], List.getElem_mem _, by decide, by decide, by decide, by decide⟩, .inl rfl, rfl, by decide⟩

theorem witness_StepRunsDecodedCommand :
    (EngineNext (flying State.reset 0x00082310) ∧ (flying State.reset 0x00082310).busy = true ∧
      decode (flying State.reset 0x00082310).cmdlast = .ok (.modmul 3 1 2 0)) ∧
    (EngineNext (ahead State.reset [.engine]) ∧ (ahead State.reset [.engine]).busy = false) ∧
    decode 0x60 = .ok (.h2c 0) :=
  ⟨⟨.inl rfl, rfl, by decide⟩, ⟨.inr ⟨[], rfl⟩, rfl⟩, by decide⟩

theorem witness_CmdWriteAccepts :
    (HostNext (ahead State.reset [.host (.write 0x00C 5)]) (.write 0x00C 5) ∧
      (ahead State.reset [.host (.write 0x00C 5)]).busy = false) ∧
    (HostNext (ahead (flying State.reset 0) [.host (.write 0x00C 5)]) (.write 0x00C 5) ∧
      (ahead (flying State.reset 0) [.host (.write 0x00C 5)]).busy = true) :=
  ⟨⟨⟨[], rfl⟩, rfl⟩, ⟨⟨[], rfl⟩, rfl⟩⟩

theorem witness_StepsAnswerAndCommandsComplete : draws (.h2c 31) = false ∧ draws .nop = false := by decide

/-- MODMUL with modulus 0, in flight. -/
theorem witness_ErrorsAreListedAndPrecise :
    (flying State.reset 0x10).busy = true ∧
    ∃ t, exec (.modmul 0 0 0 0) (flying State.reset 0x10) = .next t ∧ (!t.busy && t.err) = true :=
  ⟨rfl, next_of_got (by decide +kernel)⟩

/-- PADD r0, r3, r6: register 31 is no destination, and it is neither a predicate nor a writer of BUF. -/
theorem witness_CommandsWriteOnlyTheirOwn :
    (∃ t, exec (.padd 0 3 6) State.reset = .next t) ∧ (31 : Reg) ∉ dests (.padd 0 3 6) ∧
    isPredicate (.padd 0 3 6) = false ∧ writesBuf (.padd 0 3 6) = false :=
  ⟨answers_of_got (by decide +kernel), by decide, by decide, by decide⟩

theorem witness_CommandsKeepHostSide : State.reset.mem.wf ∧ ∃ t, exec (.pencC 0) State.reset = .next t :=
  ⟨Memory.wf_reset, answers_of_got (by decide +kernel)⟩

theorem witness_NopAndConstants : (opcOf 0x100 = 0 ∧ (0x100 : Word) ≠ 0) ∧ (6 : Reg).val ≤ 6 ∧ (0 : Reg).val ≤ 6 := by decide

theorem witness_ModmulMultiplies :
    (Instr.modmul 3 1 2 0 = .modmul 3 1 2 0) ∧ ((stR []).reg 0).toNat = 0 ∧ ((stR [(0, -1)]).reg 0).toNat ≠ 0 := by
  decide +kernel

/-- m = 0; gcd(6, 9) = 3; gcd(3, 11) = 1; m = 1. -/
theorem witness_ModinvInverts :
    ((stR []).reg 0).toNat = 0 ∧
    (((stR [(0, 9), (1, 6)]).reg 1).toNat = 6 ∧ ((stR [(0, 9), (1, 6)]).reg 0).toNat = 9 ∧ Nat.gcd (6 % 9) 9 ≠ 1) ∧
    (((stR [(0, 11), (1, 3)]).reg 1).toNat = 3 ∧ ((stR [(0, 11), (1, 3)]).reg 0).toNat = 11 ∧ Nat.gcd (3 % 11) 11 = 1) ∧
    (((stR [(0, 1)]).reg 0).toNat = 1 ∧ Nat.gcd (0 % 1) 1 = 1) := by decide +kernel

theorem witness_ModexpPowers : ((stR []).reg 0).toNat = 0 ∧ ((stR [(0, 1)]).reg 0).toNat ≠ 0 := by decide +kernel

/-- The triples of the point statements: G and 2G; ∞ in another form than INF; two off-curve points of one x. -/
theorem witness_PaddAddsTriples :
    ((stR [(3, gx), (4, gy), (5, 1), (6, x2), (7, y2), (8, 1)]).triple 3 = ⟨toFp Gx, toFp Gy, 1⟩ ∧
      (toFp Gx).val = gx.toNat % p ∧ (toFp Gy).val = gy.toNat % p ∧
      (toFp Gx) * (1 * 1) ≠ toFp x2.toNat * (1 * 1)) ∧
    ((stR [(0, 5), (1, 9)]).triple 0 = ⟨5, 9, 0⟩) ∧
    ((⟨5, 1, 1⟩ : Triple).Z ≠ 0 ∧ (5 : Fp) * (1 * 1) = 5 * (1 * 1) ∧ (1 : Fp) * (1 * 1 * 1) ≠ 2 * (1 * 1 * 1)) := by
  decide +kernel

theorem witness_PdblDoublesTriples :
    ((⟨toFp Gx, toFp Gy, 1⟩ : Triple).Z ≠ 0 ∧ toFp Gy ≠ 0 ∧ 2 * toFp Gy * 1 ≠ 0) ∧
    ((stR [(3, 5), (5, 1)]).triple 3 = ⟨5, 0, 1⟩ ∧ (2 : Fp) * 0 * 1 = 0) ∧ (stR [(3, 2), (4, 2)]).triple 3 = ⟨2, 2, 0⟩ := by
  decide +kernel

theorem witness_PnegAndPsub :
    (stR [(3, gx), (4, gy), (5, 1)]).triple 3 = ⟨toFp Gx, toFp Gy, 1⟩ ∧ (⟨toFp Gx, toFp Gy, 1⟩ : Triple).Z ≠ 0 ∧
    (stR []).triple 0 = ⟨0, 0, 0⟩ := by decide +kernel

theorem witness_PaffNormalises :
    (stR [(3, vp + 1), (4, vp + 2), (5, vp + 1)]).triple 3 = ⟨1, 2, 1⟩ ∧ (stR [(5, vp)]).triple 3 = ⟨0, 0, 0⟩ := by
  decide +kernel

theorem witness_PointResultsAreNormal :
    (∃ t, exec (.psub 0 3 6) State.reset = .next t ∧ (t.reg (0 + 2) == 0) = true) ∧
    ∃ t, exec (.paff 0 3) (stR [(5, 1)]) = .next t ∧ (!t.err) = true :=
  ⟨next_of_got (by decide +kernel), next_of_got (by decide +kernel)⟩

/-! The group statements rest on the primality of p, proved in Laws/Prime.lean, and on points that triples denote. -/

theorem g_on_curve : secp.Equation (toZ (toFp Gx)) (toZ (toFp Gy)) := by
  have h : toFp Gy * toFp Gy = toFp Gx * toFp Gx * toFp Gx + toFp 7 := by decide +kernel
  have h := congrArg toZ h
  rw [toZ_add, toZ_mul, toZ_mul, toZ_mul, toZ_toFp 7] at h
  rw [WeierstrassCurve.Affine.equation_iff]
  simp only [secp, zero_mul, add_zero]
  rw [pow_two, pow_succ, pow_two]
  exact_mod_cast h

theorem g_nonsingular : secp.Nonsingular (toZ (toFp Gx)) (toZ (toFp Gy)) := by
  rw [WeierstrassCurve.Affine.nonsingular_iff]
  refine ⟨g_on_curve, .inr ?_⟩
  simp only [secp, zero_mul, sub_zero]
  rw [← toZ_neg, Ne, toZ_inj]
  decide +kernel

theorem g_denoted : ∃ g : secp.Point, Denotes G g :=
  ⟨.some _ _ g_nonsingular, .inr ⟨by decide, _, _, g_nonsingular, rfl, by simp [G], by simp [G]⟩⟩

/-- As coordinates of a lifted point, where a rule writes it as (x, y, 1). -/
theorem g_denoted_affine : ∃ g : secp.Point, Denotes ⟨toFp Gx, toFp Gy, 1⟩ g := g_denoted

theorem witness_PaddIsGroupAddition :
    Nat.Prime p ∧ (∃ P : secp.Point, Denotes G P) ∧ Denotes ⟨5, 9, 0⟩ (.zero : secp.Point) :=
  ⟨prime_p, g_denoted, .inl ⟨rfl, rfl⟩⟩

/-- (1, 1, 1) is off the curve; G is on it; (0, 0, 0) is ∞. -/
theorem witness_PmulMultipliesPoints :
    Nat.Prime p ∧ ¬OnCurveOrInf ((stR [(3, 1), (4, 1), (5, 1)]).triple 3) ∧
    OnCurveOrInf ((stR [(3, gx), (4, gy), (5, 1)]).triple 3) ∧ OnCurveOrInf ((stR []).triple 3) := by
  refine ⟨prime_p, ?_, .inr ?_, .inl ?_⟩
  · rintro (h | h)
    · revert h; decide +kernel
    · revert h; decide +kernel
  · decide +kernel
  · decide +kernel

theorem witness_PmulgMultipliesGenerator : Nat.Prime p := prime_p

theorem witness_GeneratorMultiplesAndInverses : Nat.Prime p ∧ (∃ g : secp.Point, Denotes G g) ∧ 1 ≤ n - 1 ∧ n - 1 ≤ n - 1 :=
  ⟨prime_p, g_denoted, by decide +kernel, le_rfl⟩

theorem witness_BytesAreBigEndian : 2 ^ 256 - 1 < 2 ^ 256 ∧ (List.replicate 32 (0xFF : Byte)).length = 32 := by
  decide +kernel

theorem witness_PencWritesSec1 :
    (stR [(3, gx), (4, gy), (5, 1)]).mem.wf ∧ ((stR [(3, gx), (4, gy), (5, 1)]).triple 3).Z ≠ 0 ∧
    ((stR [(3, gx), (4, gy), (5, vp)]).triple 3).Z = 0 := by decide +kernel

theorem witness_PencXWritesXOnly :
    (stR [(3, gx), (4, gy), (5, 1)]).mem.wf ∧ ((stR [(3, gx), (4, gy), (5, 1)]).triple 3).Z ≠ 0 ∧
    (stR []).mem.wf ∧ ((stR []).triple 3).Z = 0 := by decide +kernel

/-- Both parities, and an x with no point. -/
theorem witness_LiftFindsThePoint :
    lift Gx 0 = some (toFp Gx, toFp Gy) ∧ lift Gx 1 = some (toFp Gx, -toFp Gy) ∧ lift 0 0 = none := by decide +kernel

/-- BUF as PDEC and PDEC.X read it, for every clause. -/
theorem witness_PdecDecodes_lengths :
    ((stB [] (List.replicate 129 0)).buflen.toNat = 129) ∧ ((stB [] (List.replicate 128 0)).buflen.toNat = 128) ∧
    (stB [] (List.replicate 33 0)).bufBytes = List.replicate 33 0 ∧
    (stB [] (List.replicate 65 0)).bufBytes = List.replicate 65 0 ∧
    (stB [] (List.replicate 32 0)).bufBytes = List.replicate 32 0 ∧ lift (os2ip (List.replicate 32 0)) 0 = none := by
  decide +kernel

theorem witness_PdecDecodes_values :
    ((stB [] (0x03 :: be32 gx.toNat)).bufBytes.getD 0 0 = BitVec.ofNat 8 (2 + 1) ∧
      lift (os2ip ((stB [] (0x03 :: be32 gx.toNat)).bufBytes.drop 1)) 1 = some (toFp Gx, -toFp Gy)) ∧
    lift (os2ip ((stB [] (0x02 :: be32 p)).bufBytes.drop 1)) 0 = none ∧
    ((stB [] (0x05 :: be32 gx.toNat)).bufBytes.getD 0 0 ≠ 2 ∧ (stB [] (0x05 :: be32 gx.toNat)).bufBytes.getD 0 0 ≠ 3) ∧
    ((stB [] (0x06 :: (be32 1 ++ be32 1))).bufBytes.getD 0 0 ≠ 4) ∧
    ((stB [] (0x04 :: (be32 1 ++ be32 p))).bufBytes.getD 0 0 = 4 ∧
      p ≤ os2ip ((stB [] (0x04 :: (be32 1 ++ be32 p))).bufBytes.drop 33)) ∧
    ((1 : Fp).val = os2ip (((stB [] (0x04 :: (be32 1 ++ be32 1))).bufBytes.drop 1).take 32) ∧
      (1 : Fp).val = os2ip ((stB [] (0x04 :: (be32 1 ++ be32 1))).bufBytes.drop 33)) := by decide +kernel

theorem witness_PvalidAndPeqTest :
    (stR [(3, gx), (4, gy), (5, 1)]).triple 3 = ⟨toFp Gx, toFp Gy, 1⟩ ∧ (⟨toFp Gx, toFp Gy, 1⟩ : Triple).Z ≠ 0 ∧
    (stR [(3, gx), (4, gy), (5, 1)]).triple 6 = ⟨0, 0, 0⟩ := by decide +kernel

theorem witness_EncodingsRoundTrip :
    (stR [(3, gx), (4, gy), (5, 1)]).mem.wf ∧ OnCurveOrInf ((stR [(3, gx), (4, gy), (5, 1)]).triple 3) ∧
    ((stR [(3, gx), (4, gy), (5, 1)]).triple 3).Z ≠ 0 ∧
    ((stR [(3, gx), (4, gy), (5, 1)]).triple 3).Y.val % 2 = 0 ∧ ((stR [(3, gx), (4, vp - gy), (5, 1)]).triple 3).Y.val % 2 = 1 :=
  ⟨by decide +kernel, witness_PmulMultipliesPoints.2.2.1, by decide +kernel, by decide +kernel, by decide +kernel⟩

/-- The draws of V-K1 and V-K2, and no draw waiting. -/
theorem witness_KeygenWritesKeyPair :
    (∀ d ∈ [(-1 : Val), 0], ¬(1 ≤ d.toNat ∧ d.toNat ≤ n - 1)) ∧
    ({ State.reset with entropy := [-1, 0, 3] }.entropy = [-1, 0] ++ 3 :: []) ∧ 1 ≤ (3 : Val).toNat ∧ (3 : Val).toNat ≤ n - 1 ∧
    1 ≤ (vn - 1).toNat ∧ (vn - 1).toNat ≤ n - 1 ∧ ({ State.reset with entropy := [-1, 0] }.entropy = [-1, 0]) := by
  simp only [List.mem_cons, List.not_mem_nil, or_false, forall_eq_or_imp, forall_eq]
  decide +kernel

/-- d = z = k = 1 (V-C1); d = 0 and k = n (V-C4); s = 0 for z = −r·d. -/
theorem witness_EcdsaSignSigns :
    ((stR [(1, 1), (2, 1), (3, 1)]).mem.wf ∧ (mulGPoint 1).1.val % n ≠ 0 ∧
      invN 1 * (1 + (mulGPoint 1).1.val % n * 1) % n ≠ 0) ∧
    ¬(1 ≤ ((stR []).reg 1).toNat ∧ ((stR []).reg 1).toNat ≤ n - 1) ∧
    ¬(1 ≤ ((stR [(3, vn)]).reg 3).toNat ∧ ((stR [(3, vn)]).reg 3).toNat ≤ n - 1) ∧
    invN 1 * (((stR [(1, 1), (2, vn - gx), (3, 1)]).reg 2).toNat + (mulGPoint 1).1.val % n * 1) % n = 0 := by
  decide +kernel

/-- The draws of V-C6, and the secret of V-C7. -/
theorem witness_EcdsaSignRSigns :
    ({ stR [(1, 2), (2, 0x1234)] with entropy := [0, 3] }.entropy = [0] ++ 3 :: []) ∧
    nonceOk 2 0x1234 (0 : Val).toNat = false ∧ nonceOk 2 0x1234 (3 : Val).toNat = true ∧
    ¬(1 ≤ ((stR []).reg 1).toNat ∧ ((stR []).reg 1).toNat ≤ n - 1) ∧ (stR [(1, 2), (2, 0x1234)]).mem.wf := by
  decide +kernel

/-- r = Gx, s = 1, recid 0: R is G. And recid 4; lengths 129, 64 and 65. -/
theorem witness_EcdsaRecoverRecovers :
    ((stB [] (be32 Gx ++ be32 1 ++ [0])).buflen.toNat = 65 ∧
      os2ip ((stB [] (be32 Gx ++ be32 1 ++ [0])).bufBytes.take 32) = Gx ∧ 1 ≤ Gx ∧ Gx ≤ n - 1 ∧
      os2ip (((stB [] (be32 Gx ++ be32 1 ++ [0])).bufBytes.drop 32).take 32) = 1 ∧
      ((stB [] (be32 Gx ++ be32 1 ++ [0])).bufBytes.getD 64 0).toNat = 0 ∧
      lift (Gx + n * (0 / 2)) (0 % 2) = some (toFp Gx, toFp Gy)) ∧
    3 < ((stB [] (sigC2 4)).bufBytes.getD 64 0).toNat ∧ (stB [] (List.replicate 129 0)).buflen.toNat = 129 ∧
    (stB [] (List.replicate 64 0)).buflen.toNat = 64 := by decide +kernel

theorem witness_EcdsaRecoverRecovers_points :
    Nat.Prime p ∧ (∃ R : secp.Point, Denotes ⟨toFp Gx, toFp Gy, 1⟩ R) ∧ ∃ g : secp.Point, Denotes G g :=
  ⟨prime_p, g_denoted_affine, g_denoted⟩

theorem witness_EcdsaVerifyCompares :
    (stB [(4, gx), (5, gy), (6, 1)] (sigC2 0)).buflen.toNat = 65 ∧
    (stB [(4, gx), (5, gy), (6, 1)] (sigC2 0)).triple 4 = ⟨toFp Gx, toFp Gy, 1⟩ ∧ (1 : Fp) ≠ 0 ∧
    ((stB [] (sigC2 0)).triple 4).Z = 0 ∧ (stB [] (List.replicate 129 0)).buflen.toNat = 129 := by decide +kernel

theorem witness_EcdsaSignThenVerify :
    (flying (stR [(1, 2), (2, 0x1234), (3, 3)]) 0x01882051).busy = true ∧
    (flying (stR [(1, 2), (2, 0x1234), (3, 3)]) 0x01882051).mem.wf ∧
    (∃ t, exec (.ecdsaSign 1 2 3) (flying (stR [(1, 2), (2, 0x1234), (3, 3)]) 0x01882051) = .next t ∧ (!t.err) = true) ∧
    (2 : Reg) ≠ 4 ∧ (2 : Reg) ≠ 4 + 1 ∧ (2 : Reg) ≠ 4 + 2 :=
  ⟨by decide +kernel, by decide +kernel, next_of_got (by decide +kernel), by decide, by decide, by decide⟩

/-- An accepted secret, the secret 0, and MSGLEN at and above the capacity. -/
theorem witness_SchnorrSignSigns :
    1 ≤ 3 ∧ 3 ≤ n - 1 ∧ bip340Nonce 3 (be32 0) [] ≠ 0 ∧ ¬(1 ≤ 0 ∧ 0 ≤ n - 1) ∧ (stL [(1, 3)] [] 1024 []).mem.wf ∧
    (stL [(1, 3)] [] 1024 []).msglen.toNat = 1024 ∧ (stL [] [] 1025 []).msglen.toNat = 1025 ∧
    (bip340Sign 3 (be32 0) []).toOption.isSome = true := by decide +kernel

/-- px = Gx (even y) with an all-zero signature; px = 0 (no point); r = p; s = n; the lengths. -/
theorem witness_SchnorrVerifyVerifies :
    (List.replicate 64 (0 : Byte)).length = 64 ∧ os2ip ((List.replicate 64 (0 : Byte)).take 32) < p ∧
    os2ip ((List.replicate 64 (0 : Byte)).drop 32) < n ∧ lift Gx 0 = some (toFp Gx, toFp Gy) ∧ lift 0 0 = none ∧
    p ≤ os2ip ((be32 p ++ be32 0).take 32) ∧ n ≤ os2ip ((be32 0 ++ be32 n).drop 32) ∧
    (stL [] sigB1 1024 []).buflen.toNat = 64 ∧ (stL [] sigB1 1024 []).msglen.toNat = 1024 ∧
    (stL [] (List.replicate 65 0) 0 []).buflen.toNat = 65 ∧ (stL [] [] 1025 []).msglen.toNat = 1025 := by decide +kernel

theorem witness_SchnorrVerifyVerifies_points :
    Nat.Prime p ∧ (∃ P : secp.Point, Denotes ⟨toFp Gx, toFp Gy, 1⟩ P) ∧ ∃ g : secp.Point, Denotes G g :=
  ⟨prime_p, g_denoted_affine, g_denoted⟩

theorem witness_SchnorrSignThenVerify :
    (flying (stL [(1, 3), (10, x3)] [] 32 []) 0x00082054).busy = true ∧
    (flying (stL [(1, 3), (10, x3)] [] 32 []) 0x00082054).mem.wf ∧
    (∃ t, exec (.schnorrSign 1 2) (flying (stL [(1, 3), (10, x3)] [] 32 []) 0x00082054) = .next t ∧ (!t.err && (t.reg 10).toNat == (mulGPoint 3).1.val) = true) ∧ 1 ≤ n - 1 :=
  ⟨by decide +kernel, by decide +kernel, next_of_got (by decide +kernel), by decide +kernel⟩

/-- px = Gx with both forms of the root; px = 0 has no point. -/
theorem witness_TapTweakTweaks :
    lift Gx 0 = some (toFp Gx, toFp Gy) ∧ os2ip (hashTag tagTapTweak (be32 Gx ++ be32 0)) < n ∧
    os2ip (hashTag tagTapTweak (be32 Gx ++ [])) < n ∧ lift 0 0 = none := by decide +kernel

theorem witness_TapTweakTweaks_points [Fact (Nat.Prime p)] (P g : secp.Point) (k : Nat) :
    P + k • g = 0 ∨ ∃ qx qy hq, P + k • g = .some qx qy hq := by
  cases P + k • g with
  | zero => exact .inl rfl
  | some x y h => exact .inr ⟨x, y, h, rfl⟩

theorem witness_TapSignSigns :
    (stL [(1, 3)] [] 1024 []).mem.wf ∧ (stL [(1, 3)] [] 1024 []).msglen.toNat = 1024 ∧ 1 ≤ 3 ∧ 3 ≤ n - 1 ∧
    os2ip (hashTag tagTapTweak (be32 (mulGPoint 3).1.val ++ [])) < n ∧
    (evenSecret 3 + os2ip (hashTag tagTapTweak (be32 (mulGPoint 3).1.val ++ []))) % n ≠ 0 ∧
    (stL [] [] 1025 []).msglen.toNat = 1025 ∧ ¬(1 ≤ ((stR []).reg 1).toNat ∧ ((stR []).reg 1).toNat ≤ n - 1) := by
  decide +kernel

theorem witness_TapVerifyVerifies :
    (stL [(10, x3)] sigT4 1024 []).buflen.toNat = 64 ∧ (stL [(10, x3)] sigT4 1024 []).msglen.toNat = 1024 ∧
    (stL [] (List.replicate 65 0) 0 []).buflen.toNat = 65 ∧ (stL [] [] 1025 []).msglen.toNat = 1025 :=
  ⟨by decide +kernel, by decide +kernel, by decide +kernel, by decide +kernel⟩

/-- TAP.SIGN r1, r2, r3 with the root 0 of V-T4, then TAP.SIGNN r1, r3. -/
theorem witness_TapSignThenVerify_root :
    (flying (stL [(1, 3), (10, x3)] [] 32 []) 0x01882057).busy = true ∧
    (flying (stL [(1, 3), (10, x3)] [] 32 []) 0x01882057).mem.wf ∧
    ∃ t, exec (.tapSign 1 2 3) (flying (stL [(1, 3), (10, x3)] [] 32 []) 0x01882057) = .next t ∧
      (!t.err && (t.reg 10).toNat == (mulGPoint 3).1.val) = true :=
  ⟨by decide +kernel, by decide +kernel, next_of_got (by decide +kernel)⟩

theorem witness_TapSignThenVerify :
    (flying (stL [(1, 3), (10, x3)] [] 32 []) 0x11802057).busy = true ∧
    (flying (stL [(1, 3), (10, x3)] [] 32 []) 0x11802057).mem.wf ∧
    ∃ t, exec (.tapSignN 1 3) (flying (stL [(1, 3), (10, x3)] [] 32 []) 0x11802057) = .next t ∧
      (!t.err && (t.reg 10).toNat == (mulGPoint 3).1.val) = true :=
  ⟨by decide +kernel, by decide +kernel, next_of_got (by decide +kernel)⟩

/-- u = 0, where tv1 = 0, and u = 1; then a point of E′, and the x of
the exceptional case. -/
theorem witness_SswuAndIsogenyMapPoints :
    ((0 : Fp) = -11 * -11 * (0 * 0 * (0 * 0)) + -11 * (0 * 0) ∧ swuX1 0 * (-11 * swuA) = 1771) ∧
    ((110 : Fp) = -11 * -11 * (1 * 1 * (1 * 1)) + -11 * (1 * 1) ∧ (110 : Fp) ≠ 0 ∧
      swuX1 1 * (swuA * 110) = -(1771 * (1 + 110))) ∧
    (sswu 1).2 * (sswu 1).2 = (sswu 1).1 * (sswu 1).1 * (sswu 1).1 + swuA * (sswu 1).1 + 1771 ∧
    isoXDen (sswu 1).1 ≠ 0 ∧ isoYDen (sswu 1).1 ≠ 0 ∧
    isoXDen (toFp 0x89291C84DE3E11F1041DA6957255EED5FC964A4DF050DF221D6AD4CE6AB9C5A5) = 0 := by
  decide +kernel

theorem witness_H2cHashesToCurve :
    (stL [] [] 1024 [0x58]).msglen.toNat = 1024 ∧ (stL [] [] 1024 [0x58]).dstlen ≠ 0 ∧ (stL [] [] 1024 []).dstlen = 0 ∧
    (stL [] [] 1025 []).msglen.toNat = 1025 := by decide +kernel

theorem witness_H2cResultOnCurve :
    (flying (stL [] [] 0 [0x58]) 0x60).busy = true ∧
    ∃ t, exec (.h2c 0) (flying (stL [] [] 0 [0x58]) 0x60) = .next t ∧ (!t.err) = true :=
  ⟨by decide +kernel, next_of_got (by decide +kernel)⟩

theorem witness_ResetsGiveEveryResetValue :
    (∃ rest, (ahead (flying State.reset 0) [.hardReset]).script = .hardReset :: rest) ∧
    (2 : Word).getLsbD 1 = true ∧ HostNext (ahead (flying State.reset 0) [.host (.write 0x004 2)]) (.write 0x004 2) :=
  ⟨⟨[], rfl⟩, by decide, [], rfl⟩

/-- A host move ahead, on a state: the premise of the window statements. -/
theorem hostNext_ahead (s : State) (m : HostMove) : HostNext (ahead s [.host m]) m := ⟨[], rfl⟩

theorem witness_ControlReads :
    HostNext (ahead State.reset [.host (.read 0x020)]) (.read 0x020) ∧ (0x020 : Offset).toNat < 0x024 ∧
    (0x020 : Offset).toNat % 4 = 0 ∧ (0x000 : Offset).toNat % 4 = 0 :=
  ⟨hostNext_ahead .., by decide, by decide, by decide⟩

/-- The first and last words of BUF and MSG, DST's last whole word, 0x2FC, and the register words 0x400 and 0x7FC. -/
theorem witness_DataReads :
    HostNext (ahead State.reset [.host (.read 0x7FC)]) (.read 0x7FC) ∧ (ahead State.reset [.host (.read 0x7FC)]).busy = false ∧
    (0x7FC : Offset).toNat = 0x400 + 32 * (31 : Reg).val + 4 * 7 ∧ (0x400 : Offset).toNat = 0x400 + 32 * (0 : Reg).val + 4 * 0 ∧
    (0x17C : Offset).toNat < 0x180 ∧ (0x2F8 : Offset).toNat < 0x2FC ∧ (0xBFC : Offset).toNat < 0xC00 ∧
    (0x2FC : Offset).toNat % 4 = 0 :=
  ⟨hostNext_ahead .., rfl, by decide, by decide, by decide, by decide, by decide, by decide⟩

theorem witness_DataWrites :
    HostNext (ahead State.reset [.host (.write 0x2FC (-1))]) (.write 0x2FC (-1)) ∧
    (ahead State.reset [.host (.write 0x2FC (-1))]).busy = false ∧
    (ahead State.reset [.host (.write 0x2FC (-1))]).mem.wf ∧ (0x2FC : Offset).toNat % 4 = 0 ∧
    (0x7FC : Offset).toNat = 0x400 + 32 * (31 : Reg).val + 4 * 7 ∧ (0x018 : Offset).toNat % 4 = 0 :=
  ⟨hostNext_ahead .., rfl, Memory.wf_reset, by decide, by decide, by decide⟩

theorem witness_OtherAccessesGetBusErrors :
    HostNext (ahead State.reset [.host (.other .byte 0x400)]) (.other .byte 0x400) ∧
    HostNext (ahead State.reset [.host (.read 0x402)]) (.read 0x402) ∧ (0x402 : Offset).toNat % 4 ≠ 0 ∧
    HostNext (ahead State.reset [.host (.write 0x00D 1)]) (.write 0x00D 1) ∧ (0x00D : Offset).toNat % 4 ≠ 0 :=
  ⟨hostNext_ahead .., hostNext_ahead .., by decide, hostNext_ahead .., by decide⟩

/-- A write of CTRL while a command is in flight; the first and last words of each dropped region. -/
theorem witness_WritesWhileBusy :
    HostNext (ahead (flying State.reset 0) [.host (.write 0x004 1)]) (.write 0x004 1) ∧
    (ahead (flying State.reset 0) [.host (.write 0x004 1)]).busy = true ∧ (1 : Word).getLsbD 1 = false ∧
    (2 : Word).getLsbD 1 = true ∧ (0x020 : Offset).toNat < 0x024 ∧ (0x2FC : Offset).toNat < 0x300 ∧
    (0xBFC : Offset).toNat < 0xC00 ∧ HostNext (ahead (flying State.reset 0) [.host (.write 0x014 1)]) (.write 0x014 1) ∧
    (ahead (flying State.reset 0) [.host (.write 0x014 1)]).busy = true :=
  ⟨hostNext_ahead .., rfl, by decide, by decide, by decide, by decide, by decide, hostNext_ahead .., rfl⟩

theorem witness_ReadsWhileBusy :
    HostNext (ahead (flying State.reset 0) [.host (.read 0x2FC)]) (.read 0x2FC) ∧
    (ahead (flying State.reset 0) [.host (.read 0x2FC)]).busy = true ∧ (0x2FC : Offset).toNat % 4 = 0 ∧
    0x200 ≤ (0x2FC : Offset).toNat ∧ (0x2FC : Offset).toNat < 0x300 ∧ (0x100 : Offset) ≠ 0x2FC :=
  ⟨hostNext_ahead .., rfl, by decide, by decide, by decide, by decide⟩

/-- The first and last reserved words of each reserved region. -/
theorem witness_ReservedOffsets :
    HostNext (ahead State.reset [.host (.read 0xFFC)]) (.read 0xFFC) ∧
    HostNext (ahead State.reset [.host (.write 0x2FC 5)]) (.write 0x2FC 5) ∧
    (HostNext (ahead (flying State.reset 0) [.host (.read 0x2FC)]) (.read 0x2FC) ∧
      (ahead (flying State.reset 0) [.host (.read 0x2FC)]).busy = true) ∧ 0xC00 ≤ (0xFFC : Offset).toNat ∧
    0x024 ≤ (0x024 : Offset).toNat ∧ (0x0FC : Offset).toNat < 0x100 ∧ (0x1FC : Offset).toNat < 0x200 ∧
    (0x3FC : Offset).toNat < 0x400 :=
  ⟨hostNext_ahead .., hostNext_ahead .., ⟨hostNext_ahead .., rfl⟩, by decide, by decide, by decide, by decide, by decide⟩

theorem witness_StatusAndInterrupt :
    HostNext (ahead State.reset [.host .observeIrq]) .observeIrq ∧
    HostNext (ahead State.reset [.host (.write 0x008 2)]) (.write 0x008 2) ∧ (2 : Word).getLsbD 1 = true ∧
    HostNext (ahead State.reset [.host (.write 0x004 1)]) (.write 0x004 1) ∧ (1 : Word).getLsbD 1 = false ∧
    ∃ t, step (flying State.reset 0) = .next t ∧ t.busy = false ∧ t.done = true :=
  ⟨hostNext_ahead .., hostNext_ahead .., by decide, hostNext_ahead .., by decide, _, rfl, rfl, rfl⟩

theorem witness_StepKeepsInvariant : Inv State.reset.toBlock ∧ ∃ t, step State.reset = .next t :=
  ⟨⟨Memory.wf_reset, by decide, by decide, by decide⟩, _, rfl⟩

/-- The three outcomes: a completion, a reset, and a host write that leaves the command in flight. -/
theorem witness_OnlyCompletionOrResetEndsCommand :
    (flying State.reset 0).busy = true ∧ (∃ t, step (flying State.reset 0) = .next t ∧ t.busy = false) ∧
    (∃ t, step (ahead (flying State.reset 0) [.hardReset]) = .next t ∧ t.busy = false) ∧
    ∃ t, step (ahead (flying State.reset 0) [.host (.write 0x018 9)]) = .next t ∧ t.busy = true :=
  ⟨rfl, ⟨_, rfl, rfl⟩, ⟨_, rfl, rfl⟩, _, rfl, rfl⟩

/-- NOP, and an illegal word. -/
theorem witness_InFlightCommandEnds :
    ((flying State.reset 0).busy = true ∧ ∀ i, decode (flying State.reset 0).cmdlast = .ok i → draws i = false) ∧
    ((flying State.reset 0x61).busy = true ∧ ∀ i, decode (flying State.reset 0x61).cmdlast = .ok i → draws i = false) := by
  have hnop : decode (flying State.reset 0).cmdlast = .ok .nop := by decide
  have hbad : decode (flying State.reset 0x61).cmdlast = .error .opcode := by decide
  refine ⟨⟨rfl, fun i h => ?_⟩, rfl, fun i h => ?_⟩
  · rw [hnop] at h; cases h; rfl
  · rw [hbad] at h; cases h

end Sys2Proof.Tests
end

section
/-! Byte strings (R11): `i2osp` and `os2ip` by the last byte. -/

namespace Sys2Proof.Machine

@[simp] theorem length_i2osp (v L : Nat) : (i2osp v L).length = L := by simp [i2osp]

theorem i2osp_getD (v L j : Nat) (h : j < L) :
    (i2osp v L).getD j 0 = BitVec.ofNat 8 (v / 256 ^ (L - 1 - j)) := by
  have hpow : 2 ^ (8 * (L - 1 - j)) = 256 ^ (L - 1 - j) := pow_mul 2 8 _
  simp [i2osp, h, Nat.shiftRight_eq_div_pow, hpow]

/-- The last byte of an encoding is v mod 256, the bytes before it encode v / 256. -/
theorem i2osp_succ (v L : Nat) : i2osp v (L + 1) = i2osp (v / 256) L ++ [BitVec.ofNat 8 v] := by
  simp only [i2osp, List.range_succ, List.map_append, List.map_cons, List.map_nil]
  congr 1
  · refine List.map_congr_left fun j hj => ?_
    have hj : j < L := List.mem_range.mp hj
    rw [show 8 * (L + 1 - 1 - j) = 8 + 8 * (L - 1 - j) by omega, Nat.shiftRight_add,
      Nat.shiftRight_eq_div_pow v 8]
  · simp

theorem os2ip_append_singleton (s : List Byte) (b : Byte) : os2ip (s ++ [b]) = os2ip s * 256 + b.toNat := by
  simp [os2ip]

/-- Decoding an L-byte encoding gives the value back, up to the bytes that do not fit. -/
theorem os2ip_i2osp (v L : Nat) : os2ip (i2osp v L) = v % 256 ^ L := by
  induction L generalizing v with
  | zero => simp [i2osp, os2ip, Nat.mod_one]
  | succ L ih =>
    have hsplit : v % (256 * 256 ^ L) = v % 256 + 256 * (v / 256 % 256 ^ L) := Nat.mod_mul
    rw [i2osp_succ, os2ip_append_singleton, ih, BitVec.toNat_ofNat, pow_succ' 256 L, hsplit]
    omega

/-- Encoding the value of a byte string on its own length gives the string back. -/
theorem i2osp_os2ip (s : List Byte) : i2osp (os2ip s) s.length = s := by
  induction s using List.reverseRecOn with
  | nil => rfl
  | append_singleton s b ih =>
    have hb := b.isLt
    have hdiv : (os2ip s * 256 + b.toNat) / 256 = os2ip s := by omega
    have hlast : BitVec.ofNat 8 (os2ip s * 256 + b.toNat) = b := by
      apply BitVec.eq_of_toNat_eq
      rw [BitVec.toNat_ofNat]
      omega
    rw [List.length_append, List.length_singleton, i2osp_succ, os2ip_append_singleton, hdiv, hlast, ih]

/-- Settles O25: the round trips of I2OSP and OS2IP at 32 bytes. -/
theorem bytesAreBigEndian : Obligations.BytesAreBigEndian := by
  unfold Obligations.BytesAreBigEndian
  refine ⟨fun v hv => ⟨length_i2osp v 32, ?_, fun j hj => i2osp_getD v 32 j hj⟩, fun b hb => ?_⟩
  · exact (os2ip_i2osp v 32).trans (Nat.mod_eq_of_lt (by omega))
  · have h := i2osp_os2ip b
    rwa [hb] at h

end Sys2Proof.Machine
end

section
/-! The extended Euclidean loop of R143 computes the inverse. -/

namespace Sys2Proof.Machine

/-- The new coefficient of the loop, as an element of ℤ/m. -/
theorem cast_modInvLoop_coeff (m s₀ q s₁ : Nat) (hm : 0 < m) :
    (((s₀ + (m - q * s₁ % m)) % m : Nat) : ZMod m) = s₀ - q * s₁ := by
  rw [ZMod.natCast_mod, Nat.cast_add, Nat.cast_sub (Nat.mod_lt _ hm).le, ZMod.natCast_self, ZMod.natCast_mod,
    Nat.cast_mul, zero_sub, sub_eq_add_neg]

/-- Euclid's step keeps the remainders coprime. -/
theorem coprime_mod_swap {a b : Nat} (h : Nat.Coprime a b) : Nat.Coprime b (a % b) := by
  rw [Nat.coprime_comm, Nat.Coprime, ← Nat.gcd_rec, Nat.gcd_comm]
  exact h

/-- The product of the two remainders at least halves in a step. -/
theorem mul_mod_lt_half (r₀ r₁ k : Nat) (h1 : 0 < r₁) (hlt : r₁ < r₀) (hk : r₀ * r₁ < 2 ^ (k + 1)) :
    r₁ * (r₀ % r₁) < 2 ^ k := by
  have hmod : r₀ % r₁ < r₁ := Nat.mod_lt _ h1
  have hdiv : r₀ % r₁ + r₁ * (r₀ / r₁) = r₀ := Nat.mod_add_div r₀ r₁
  have hq : r₁ * 1 ≤ r₁ * (r₀ / r₁) := Nat.mul_le_mul_left _ (Nat.div_pos hlt.le h1)
  have hhalf : r₁ * (2 * (r₀ % r₁)) ≤ r₁ * r₀ := Nat.mul_le_mul_left _ (by omega)
  rw [pow_succ] at hk
  nlinarith

/-- With coprime remainders r₀ ≡ a·s₀ and r₁ ≡ a·s₁, and enough steps, the loop ends in the inverse of a (R143). -/
theorem modInvLoop_spec (m a k r₀ s₀ r₁ s₁ : Nat) (hm : 0 < m) (hlt : r₁ < r₀) (hk : r₀ * r₁ < 2 ^ k)
    (hc : Nat.Coprime r₀ r₁) (h0 : (a * s₀ : ZMod m) = r₀) (h1 : (a * s₁ : ZMod m) = r₁)
    (hs0 : s₀ < m) (hs1 : s₁ < m) :
    modInvLoop m k r₀ s₀ r₁ s₁ < m ∧ (a * modInvLoop m k r₀ s₀ r₁ s₁ : ZMod m) = 1 := by
  have hend (hr : r₁ = 0) : s₀ < m ∧ (a * s₀ : ZMod m) = 1 := by
    rw [hr, Nat.coprime_zero_right] at hc
    exact ⟨hs0, by rw [h0, hc, Nat.cast_one]⟩
  induction k generalizing r₀ s₀ r₁ s₁ with
  | zero =>
    have hr : r₁ = 0 := by
      rcases Nat.mul_eq_zero.mp (show r₀ * r₁ = 0 by omega) with h | h <;> omega
    exact hend hr
  | succ k ih =>
    rw [modInvLoop]
    split
    · next hr => exact hend hr
    · next hr =>
      have hpos : 0 < r₁ := Nat.pos_of_ne_zero hr
      have hco : Nat.Coprime r₁ (r₀ % r₁) := coprime_mod_swap hc
      have hnew : (a * ((s₀ + (m - r₀ / r₁ * s₁ % m)) % m : Nat) : ZMod m) = (r₀ % r₁ : Nat) := by
        have hcast : ((r₀ % r₁ : Nat) : ZMod m) + r₁ * (r₀ / r₁ : Nat) = r₀ := by
          exact_mod_cast congrArg (Nat.cast (R := ZMod m)) (Nat.mod_add_div r₀ r₁)
        rw [cast_modInvLoop_coeff _ _ _ _ hm]
        linear_combination h0 - (r₀ / r₁ : Nat) * h1 - hcast
      refine ih r₁ s₁ _ _ (Nat.mod_lt _ hpos) (mul_mod_lt_half _ _ _ hpos hlt hk) hco h1 hnew hs1 (Nat.mod_lt _ hm) ?_
      intro hz
      rw [hz, Nat.coprime_zero_right] at hco
      exact ⟨hs1, by rw [h1, hco, Nat.cast_one]⟩

/-- inv of R143: for a coprime to a modulus of at most 256 bits, `modInv` is the inverse below the modulus. -/
theorem modInv_spec (a m : Nat) (hm : 0 < m) (hb : m ≤ 2 ^ 256) (hc : Nat.Coprime a m) :
    modInv a m < m ∧ a * modInv a m % m = 1 % m := by
  have hlt : a % m < m := Nat.mod_lt _ hm
  have hprod (b : Nat) (h : m ≤ 2 ^ b) : m * (a % m) < 2 ^ (b + b + 1) :=
    calc m * (a % m) ≤ 2 ^ b * 2 ^ b := Nat.mul_le_mul h (hlt.le.trans h)
      _ < 2 ^ (b + b + 1) := by rw [← pow_add]; exact Nat.pow_lt_pow_succ Nat.one_lt_two
  obtain ⟨hv, hinv⟩ := modInvLoop_spec m a (256 + 256 + 1) m 0 (a % m) (1 % m) hm hlt (hprod 256 hb)
    (coprime_mod_swap hc) (by simp) (by simp) hm (Nat.mod_lt _ hm)
  refine ⟨hv, (ZMod.natCast_eq_natCast_iff' _ _ m).mp ?_⟩
  rw [Nat.cast_mul, Nat.cast_one]
  exact hinv

/-- inv_n of R15, for the scalars of R214 and R215. -/
theorem invN_spec (k : Nat) (h1 : 1 ≤ k) (hk : k ≤ n - 1) : invN k < n ∧ k * invN k % n = 1 := by
  have hc : Nat.Coprime k n := (Nat.coprime_of_lt_prime (by omega) (by omega) prime_n).symm
  exact modInv_spec k n (by decide) (by decide) hc

end Sys2Proof.Machine
end

section
/-! The formulas of R161 and R163 compute the group operation of E (R16, R162). -/

namespace Sys2Proof.Machine

/-- A numeral in the model's field is that numeral in Mathlib's. -/
@[simp] theorem toZ_ofNat (k : Nat) [k.AtLeastTwo] : toZ (ofNat(k) : Fp) = ofNat(k) := toZ_toFp k

theorem toZ_ne_zero (a : Fp) : toZ a ≠ 0 ↔ a ≠ 0 := (toZ_eq_zero a).not

/-- GF(p) has odd characteristic. -/
theorem two_ne_zero_mod_p : (2 : ZMod p) ≠ 0 := by
  rw [← toZ_ofNat, toZ_ne_zero]
  decide

/-! The coefficients of y² = x³ + 7 (R48), and Mathlib's formulas with them. -/

@[simp] theorem secp_a₁ : secp.a₁ = 0 := rfl
@[simp] theorem secp_a₂ : secp.a₂ = 0 := rfl
@[simp] theorem secp_a₃ : secp.a₃ = 0 := rfl
@[simp] theorem secp_a₄ : secp.a₄ = 0 := rfl

theorem secp_negY (x y : ZMod p) : secp.negY x y = -y := by
  simp [WeierstrassCurve.Affine.negY]

theorem secp_addX (x₁ x₂ l : ZMod p) : secp.addX x₁ x₂ l = l ^ 2 - x₁ - x₂ := by
  simp [WeierstrassCurve.Affine.addX]

theorem secp_addY (x₁ x₂ y₁ l : ZMod p) :
    secp.addY x₁ x₂ y₁ l = -(l * (l ^ 2 - x₁ - x₂ - x₁) + y₁) := by
  rw [WeierstrassCurve.Affine.addY, secp_negY, WeierstrassCurve.Affine.negAddY, secp_addX]

/-- Only a point with y = 0 is its own negative. -/
theorem ne_negY_of_ne_zero [Fact (Nat.Prime p)] (x : ZMod p) {y : ZMod p} (hy : y ≠ 0) : y ≠ secp.negY x y := by
  rw [secp_negY, Ne, eq_neg_iff_add_eq_zero, ← two_mul]
  exact mul_ne_zero two_ne_zero_mod_p hy

/-- The slope of the tangent at (x, y). -/
theorem secp_slope_self [Fact (Nat.Prime p)] (x : ZMod p) {y : ZMod p} (hy : y ≠ 0) :
    secp.slope x x y y = 3 * x ^ 2 / (2 * y) := by
  rw [WeierstrassCurve.Affine.slope_of_Y_ne rfl (ne_negY_of_ne_zero x hy), secp_negY]
  simp [two_mul]

/-! ## What a triple denotes -/

theorem denotes_infinity (T : Triple) (h : T.Z = 0) : Denotes T .zero := .inl ⟨h, rfl⟩

/-- A triple denotes ∞ exactly when its Z is 0. -/
theorem Denotes.eq_zero_iff {T : Triple} {P : secp.Point} (h : Denotes T P) : P = 0 ↔ T.Z = 0 := by
  obtain ⟨hz, rfl⟩ | ⟨hz, x, y, hn, rfl, -⟩ := h
  · exact ⟨fun _ => hz, fun _ => rfl⟩
  · exact ⟨fun hP => absurd hP (WeierstrassCurve.Affine.Point.some_ne_zero hn), fun h0 => absurd h0 hz⟩

/-- Two field elements with a common nonzero factor are equal when their cofactors are: the comparisons of R161 and R198. -/
theorem eq_iff_of_scaled [Fact (Nat.Prime p)] {a b : Fp} {x y c : ZMod p} (ha : toZ a = x * c) (hb : toZ b = y * c)
    (hc : c ≠ 0) : a = b ↔ x = y := by
  rw [← toZ_inj, ha, hb, mul_left_inj' hc]

theorem denotes_canon {T : Triple} {P : secp.Point} (h : Denotes T P) : Denotes (canon T) P := by
  unfold canon
  split
  · next hz =>
    rw [h.eq_zero_iff.mpr hz]
    exact denotes_infinity _ rfl
  · exact h

/-! ## Doubling and addition -/

section
variable {A B : Triple} {P Q : secp.Point}

/-- R163: the tangent's slope at (x, y) is 3x²/2y, and a point with y = 0 is its own negative. -/
theorem denotes_pdblF [Fact (Nat.Prime p)] (hA : Denotes A P) : Denotes (pdblF A) (P + P) := by
  obtain ⟨hz, rfl⟩ | ⟨hz, x, y, h, rfl, hX, hY⟩ := hA
  · rw [pdblF, if_pos hz]
    exact denotes_infinity _ rfl
  · have hZ : toZ A.Z ≠ 0 := (toZ_ne_zero _).mpr hz
    have h2 : (2 : ZMod p) ≠ 0 := two_ne_zero_mod_p
    have hZ3 : toZ (2 * A.Y * A.Z) = 2 * y * toZ A.Z ^ 4 := by
      simp only [toZ_mul, toZ_ofNat, hY]
      ring
    rw [pdblF, if_neg hz]
    by_cases hy : y = 0
    · have h0 : 2 * A.Y * A.Z = 0 := by rw [← toZ_eq_zero, hZ3, hy]; ring
      rw [WeierstrassCurve.Affine.Point.add_self_of_Y_eq (by rw [secp_negY, hy, neg_zero]), if_pos h0]
      exact denotes_infinity _ rfl
    · have hne : 2 * A.Y * A.Z ≠ 0 := by
        rw [← toZ_ne_zero, hZ3]
        exact mul_ne_zero (mul_ne_zero h2 hy) (pow_ne_zero 4 hZ)
      rw [WeierstrassCurve.Affine.Point.add_self_of_Y_ne (ne_negY_of_ne_zero x hy), if_neg hne]
      refine .inr ⟨hne, _, _, _, rfl, ?_, ?_⟩
      · rw [hZ3, secp_slope_self x hy, secp_addX]
        simp only [toZ_mul, toZ_sub, toZ_sqr, toZ_ofNat, hX, hY]
        field_simp
        ring
      · rw [hZ3, secp_slope_self x hy, secp_addY]
        simp only [toZ_mul, toZ_sub, toZ_sqr, toZ_ofNat, hX, hY]
        field_simp
        ring

/-- R161: the comparisons of U1, U2 and of S1, S2 tell the tangent, the vertical and the chord apart, and the chord's slope
is (y₁ − y₂)/(x₁ − x₂). -/
theorem denotes_paddF [Fact (Nat.Prime p)] (hA : Denotes A P) (hB : Denotes B Q) : Denotes (paddF A B) (P + Q) := by
  obtain ⟨hz, rfl⟩ | ⟨hz, x₁, y₁, h₁, rfl, hX, hY⟩ := id hA
  · rw [paddF, if_pos hz, ← WeierstrassCurve.Affine.Point.zero_def, zero_add]
    exact denotes_canon hB
  obtain ⟨hz', rfl⟩ | ⟨hz', x₂, y₂, h₂, rfl, hX', hY'⟩ := id hB
  · rw [paddF, if_neg hz, if_pos hz', ← WeierstrassCurve.Affine.Point.zero_def, add_zero]
    exact denotes_canon hA
  have hZ : toZ A.Z ≠ 0 := (toZ_ne_zero _).mpr hz
  have hZ' : toZ B.Z ≠ 0 := (toZ_ne_zero _).mpr hz'
  have hZZ : toZ A.Z * toZ B.Z ≠ 0 := mul_ne_zero hZ hZ'
  have hU : A.X * sqr B.Z = B.X * sqr A.Z ↔ x₁ = x₂ :=
    eq_iff_of_scaled (by rw [toZ_mul, toZ_sqr, hX]; ring) (by rw [toZ_mul, toZ_sqr, hX']; ring)
      (pow_ne_zero 2 hZZ)
  have hS : A.Y * cube B.Z = B.Y * cube A.Z ↔ y₁ = y₂ :=
    eq_iff_of_scaled (by rw [toZ_mul, toZ_cube, hY]; ring) (by rw [toZ_mul, toZ_cube, hY']; ring)
      (pow_ne_zero 3 hZZ)
  rw [paddF, if_neg hz, if_neg hz']
  by_cases hx : x₁ = x₂
  · rw [if_pos (hU.mpr hx)]
    by_cases hy : y₁ = y₂
    · rw [if_pos (hS.mpr hy)]
      subst hx hy
      exact denotes_pdblF hA
    · have hneg := (WeierstrassCurve.Affine.Y_eq_of_X_eq h₁.1 h₂.1 hx).resolve_left hy
      rw [if_neg (hS.not.mpr hy), WeierstrassCurve.Affine.Point.add_of_Y_eq hx hneg]
      exact denotes_infinity _ rfl
  · have hslope : secp.slope x₁ x₂ y₁ y₂ = (y₁ - y₂) / (x₁ - x₂) := WeierstrassCurve.Affine.slope_of_X_ne hx
    have hd : x₁ - x₂ ≠ 0 := sub_ne_zero.mpr hx
    rw [if_neg (hU.not.mpr hx), WeierstrassCurve.Affine.Point.add_of_X_ne hx]
    refine .inr ⟨?_, _, _, _, rfl, ?_, ?_⟩
    · have hH : toZ ((B.X * sqr A.Z - A.X * sqr B.Z) * A.Z * B.Z) = -(x₁ - x₂) * (toZ A.Z * toZ B.Z) ^ 3 := by
        simp only [toZ_mul, toZ_sub, toZ_sqr, hX, hX']
        ring
      rw [← toZ_ne_zero, hH]
      exact mul_ne_zero (neg_ne_zero.mpr hd) (pow_ne_zero 3 hZZ)
    · rw [hslope, secp_addX]
      simp only [toZ_mul, toZ_sub, toZ_sqr, toZ_cube, toZ_ofNat, hX, hY, hX', hY']
      field_simp
      ring
    · rw [hslope, secp_addY]
      simp only [toZ_mul, toZ_sub, toZ_sqr, toZ_cube, toZ_ofNat, hX, hY, hX', hY']
      field_simp
      ring

end

end Sys2Proof.Machine
end

section
/-! Double-and-add computes scalar multiples in E, and normalising keeps the point (R16, R180, R183). -/

namespace Sys2Proof.Machine

/-- The next bit of the scalar. -/
theorem mod_two_pow_succ_eq (k i : Nat) : k % 2 ^ (i + 1) = k % 2 ^ i + 2 ^ i * (k.testBit i).toNat := by
  rw [Nat.mod_pow_succ, Nat.toNat_testBit]

section
variable [Fact (Nat.Prime p)] {T acc : Triple} {P Q : secp.Point}

/-- The loop doubles i times and adds the multiple of P by the low i bits of k. -/
theorem denotes_mulLoop (k i : Nat) (hT : Denotes T P) (hacc : Denotes acc Q) :
    Denotes (mulLoop k T i acc) (2 ^ i • Q + (k % 2 ^ i) • P) := by
  induction i generalizing acc Q with
  | zero => simpa [mulLoop, Nat.mod_one] using hacc
  | succ i ih =>
    have hdbl : Denotes (pdblF acc) (2 • Q) := by
      rw [two_nsmul]
      exact denotes_pdblF hacc
    simp only [mulLoop]
    rw [mod_two_pow_succ_eq, pow_succ, mul_nsmul']
    cases hbit : k.testBit i with
    | false => simpa using ih hdbl
    | true =>
      have h := ih (denotes_paddF hdbl hT)
      rw [nsmul_add, add_assoc, ← add_nsmul, add_comm (2 ^ i)] at h
      simpa using h

/-- R180: for a scalar of 256 bits, `mulPoint` is the multiple in E. -/
theorem denotes_mulPoint (k : Nat) (hk : k < 2 ^ 256) (hT : Denotes T P) : Denotes (mulPoint k T) (k • P) := by
  have h := denotes_mulLoop k 256 hT (denotes_infinity INF rfl)
  rwa [← WeierstrassCurve.Affine.Point.zero_def, nsmul_zero, zero_add, Nat.mod_eq_of_lt hk] at h

/-- affine(T) of R16, written as a triple, denotes what T denotes. -/
theorem denotes_normal (hT : Denotes T P) : Denotes (normal T) P := by
  obtain ⟨hz, rfl⟩ | ⟨hz, x, y, h, rfl, hX, hY⟩ := hT
  · rw [normal, affine, if_pos hz]
    exact denotes_infinity _ rfl
  · have hZ : toZ T.Z ≠ 0 := (toZ_ne_zero _).mpr hz
    rw [normal, affine, if_neg hz]
    refine .inr ⟨by simp [ofAffine], x, y, h, rfl, ?_, ?_⟩
    · simp [ofAffine, toZ_invP, hX, hZ]
    · simp [ofAffine, toZ_invP, hY, hZ]

end

/-! ## The generator (R48, R49) -/

section
variable [Fact (Nat.Prime p)] {g : secp.Point}

/-- R49: n·G = ∞, by running the model's double-and-add. -/
theorem order_nsmul_generator (hg : Denotes G g) : n • g = 0 := by
  have hz : (mulPoint n G).Z = 0 := by decide +kernel
  exact (denotes_mulPoint n (by decide) hg).eq_zero_iff.mpr hz

/-- R49: the order of G is the prime n. -/
theorem addOrderOf_generator (hg : Denotes G g) : addOrderOf g = n := by
  have : Fact (Nat.Prime n) := ⟨prime_n⟩
  exact addOrderOf_eq_prime (order_nsmul_generator hg) (hg.eq_zero_iff.not.mpr (by decide))

/-- k·G is not ∞ for 1 ≤ k ≤ n − 1 (R49). -/
theorem nsmul_generator_ne_zero (hg : Denotes G g) (k : Nat) (h1 : 1 ≤ k) (hk : k ≤ n - 1) : k • g ≠ 0 := by
  intro h0
  have hdvd : n ∣ k := addOrderOf_generator hg ▸ addOrderOf_dvd_of_nsmul_eq_zero h0
  have hle := Nat.le_of_dvd h1 hdvd
  omega

/-- A multiple of G other than ∞ has the coordinates of `mulGPoint`. -/
theorem denotes_mulGPoint (hg : Denotes G g) (k : Nat) (hk : k < 2 ^ 256) (h0 : k • g ≠ 0) :
    Denotes ⟨(mulGPoint k).1, (mulGPoint k).2, 1⟩ (k • g) := by
  have h : Denotes (ofAffine (mulG k)) (k • g) := denotes_normal (denotes_mulPoint k hk hg)
  rw [mulGPoint]
  cases hmul : mulG k with
  | none =>
    rw [hmul] at h
    exact absurd (h.eq_zero_iff.mpr rfl) h0
  | some P =>
    rwa [hmul] at h

end

end Sys2Proof.Machine
end

section
/-! The statement on k·G and inv_n, from the order of G and the Euclidean loop. -/

namespace Sys2Proof.Machine

/-- Settles O24: n is prime and n·G = ∞, so no k in [1, n − 1] sends G to ∞ or shares a factor with n. -/
theorem generatorMultiplesAndInverses : Obligations.GeneratorMultiplesAndInverses := by
  unfold Obligations.GeneratorMultiplesAndInverses
  intro _ g hg k h1 hk
  have hlt : k < 2 ^ 256 := lt_of_le_of_lt hk (by decide)
  exact ⟨denotes_mulGPoint hg k hlt (nsmul_generator_ne_zero hg k h1 hk), invN_spec k h1 hk⟩

end Sys2Proof.Machine
end

section
/-! What each command's outcome may write (R32, R34, R47, R124), outcome by outcome. -/

namespace Sys2Proof.Machine

/-- The writes of a completion of the command i stay within i's own: its destinations (R32), RESULT for a predicate
command (R47), the first bytes of BUF for a command that writes BUF (R34). -/
structure Permitted (i : Instr) (e : Effects) : Prop where
  regs : e.regs.map Prod.fst ⊆ dests i
  res : isPredicate i = false → e.res = none
  buf : ∀ bytes, e.buf = some bytes → writesBuf i = true ∧ bytes.length ≤ bufCapacity

/-- An outcome writes what its command may, or is an error and writes nothing (R288). -/
def Within (i : Instr) : EngineOutcome → Prop
  | .ok e => Permitted i e
  | .error _ => True

section
variable {i : Instr} {rd : Reg}

theorem within_error (i : Instr) (c : ErrCode) : Within i (.error c) := trivial

/-- A check that raises an error before the outcome. -/
theorem within_guard {c : Prop} [Decidable c] {e : ErrCode} {o : EngineOutcome} (h : Within i o) :
    Within i (if c then .error e else o) := by
  split
  · exact within_error i e
  · exact h

/-- A predicate command may write RESULT. -/
theorem res_of_isPredicate (h : isPredicate i = true) (r : Option Bool) (hf : isPredicate i = false) : r = none :=
  absurd (h.symm.trans hf) (by decide)

/-- Register writes, with RESULT for a predicate command. -/
theorem within_regs {ws : List (Reg × Val)} {r : Option Bool} (h : ws.map Prod.fst ⊆ dests i)
    (hr : isPredicate i = false → r = none) : Within i (.ok { regs := ws, res := r }) :=
  show Permitted i _ from ⟨h, hr, nofun⟩

/-- Writes of BUF, with RESULT for a predicate command. -/
theorem within_buf {bytes : List Byte} {r : Option Bool} (h : writesBuf i = true) (hl : bytes.length ≤ bufCapacity)
    (hr : isPredicate i = false → r = none) : Within i (.ok { buf := some bytes, res := r }) :=
  show Permitted i _ from ⟨List.nil_subset _, hr, fun _ hb => Option.some.inj hb ▸ ⟨h, hl⟩⟩

theorem within_okReg (v : Nat) (h : [rd] ⊆ dests i) : Within i (okReg rd v) := within_regs h fun _ => rfl

theorem within_okTriple (T : Triple) (h : [rd, rd + 1, rd + 2] ⊆ dests i) : Within i (okTriple rd T) :=
  within_regs h fun _ => rfl

theorem within_okRes (r : Bool) (h : isPredicate i = true) : Within i (okRes r) :=
  within_regs (List.nil_subset _) (res_of_isPredicate h _)

theorem within_okBuf {bytes : List Byte} (h : writesBuf i = true) (hl : bytes.length ≤ bufCapacity) :
    Within i (okBuf bytes) :=
  within_buf h hl fun _ => rfl

/-! ## Modular and point arithmetic -/

theorem within_modmulOutcome (a b m : Nat) (h : [rd] ⊆ dests i) : Within i (modmulOutcome rd a b m) :=
  within_guard (within_okReg _ h)

theorem within_modinvOutcome (a m : Nat) (h : [rd] ⊆ dests i) : Within i (modinvOutcome rd a m) :=
  within_guard (within_guard (within_okReg _ h))

theorem within_modexpOutcome (b e m : Nat) (h : [rd] ⊆ dests i) : Within i (modexpOutcome rd b e m) :=
  within_guard (within_okReg _ h)

theorem within_paffOutcome (T : Triple) (h : [rd, rd + 1, rd + 2] ⊆ dests i) : Within i (paffOutcome rd T) := by
  unfold paffOutcome
  split
  · exact within_error i _
  · exact within_okTriple _ h

theorem within_pmulOutcome (T : Triple) (k : Nat) (h : [rd, rd + 1, rd + 2] ⊆ dests i) :
    Within i (pmulOutcome rd T k) := by
  unfold pmulOutcome
  split
  · exact within_error i _
  · exact within_okTriple _ h

/-! ## Encodings (R191 to R196) -/

@[simp] theorem length_be32 (v : Nat) : (be32 v).length = 32 := length_i2osp v 32

@[simp] theorem length_sec1Compressed (T : Triple) : (sec1Compressed T).length = 33 := by
  unfold sec1Compressed
  split <;> simp

@[simp] theorem length_sec1Uncompressed (T : Triple) : (sec1Uncompressed T).length = 65 := by
  unfold sec1Uncompressed
  split <;> simp

theorem within_pencXOutcome (T : Triple) (hb : writesBuf i = true) (hp : isPredicate i = true) :
    Within i (pencXOutcome T) := by
  unfold pencXOutcome
  split
  · exact within_error i _
  · exact within_buf hb (by simp [bufCapacity]) (res_of_isPredicate hp _)

theorem within_pdecOutcome (r : Except ErrCode Triple) (h : [rd, rd + 1, rd + 2] ⊆ dests i) :
    Within i (pdecOutcome rd r) := by
  cases r with
  | error c => exact within_error i c
  | ok T => exact within_okTriple T h

theorem within_h2cOutcome (b : Block) (h : [rd, rd + 1, rd + 2] ⊆ dests i) : Within i (h2cOutcome rd b) :=
  within_guard (within_guard (within_okTriple _ h))

/-! ## Keys and signatures (45_signatures.md) -/

theorem within_keygenOutcome (rd : Reg) (v : Nat) : Within (.keygen rd) (keygenOutcome rd v) := by
  have hquad : [rd, rd + 1, rd + 1 + 1, rd + 1 + 2] = dests (.keygen rd) := by revert rd; decide
  exact within_regs (fun _ h => hquad ▸ h) fun _ => rfl

/-- A signature routine answers an error or a signature of L bytes. -/
def SignsWithLength (L : Nat) (r : Except ErrCode (List Byte)) : Prop := ∀ sig, r = .ok sig → sig.length = L

/-- ECDSA signatures have the 65 bytes of R221. -/
theorem signsWithLength_ecdsaCore (lowS : Bool) (d z k : Nat) : SignsWithLength 65 (ecdsaCore lowS d z k) := by
  intro sig h
  have hwire (r s v : Nat) : (ecdsaWire r s v).length = 65 := by simp [ecdsaWire]
  unfold ecdsaCore at h
  split_ifs at h <;> exact Except.ok.inj h ▸ hwire ..

/-- BIP340 signatures have 64 bytes (R222). -/
theorem signsWithLength_bip340Sign (d0 : Nat) (a m : List Byte) : SignsWithLength 64 (bip340Sign d0 a m) := by
  intro sig h
  simp only [bip340Sign] at h
  split_ifs at h
  rw [← Except.ok.inj h]
  simp [xbG]

theorem within_signOutcome {r : Except ErrCode (List Byte)} {L : Nat} (hr : SignsWithLength L r)
    (h : writesBuf i = true) (hL : L ≤ bufCapacity) : Within i (signOutcome r) := by
  cases r with
  | error c => exact within_error i c
  | ok sig => exact within_okBuf h ((hr sig rfl).le.trans hL)

theorem within_ecdsaSign (lowS : Bool) (d z k : Nat) (h : writesBuf i = true) :
    Within i (signOutcome (ecdsaCore lowS d z k)) :=
  within_signOutcome (signsWithLength_ecdsaCore lowS d z k) h (by decide)

theorem within_bip340Sign (d0 : Nat) (a m : List Byte) (h : writesBuf i = true) :
    Within i (signOutcome (bip340Sign d0 a m)) :=
  within_signOutcome (signsWithLength_bip340Sign d0 a m) h (by decide)

theorem within_schnorrSignOutcome (d0 : Nat) (a : List Byte) (b : Block) (h : writesBuf i = true) :
    Within i (schnorrSignOutcome d0 a b) :=
  within_guard (within_bip340Sign _ _ _ h)

theorem within_tapSignOutcome (d0 : Nat) (r a : List Byte) (b : Block) (h : writesBuf i = true) :
    Within i (tapSignOutcome d0 r a b) := by
  refine within_guard ?_
  split
  · exact within_error i _
  · exact within_bip340Sign _ _ _ h

theorem within_recoverOutcome (z : Nat) (b : Block) (h : [rd, rd + 1, rd + 2] ⊆ dests i) (hp : isPredicate i = true) :
    Within i (recoverOutcome rd z b) := by
  refine within_guard (within_guard ?_)
  split
  · exact within_regs h (res_of_isPredicate hp _)
  · exact within_regs h (res_of_isPredicate hp _)

theorem within_ecdsaVerifyOutcome (Q : Triple) (z : Nat) (b : Block) (hp : isPredicate i = true) :
    Within i (ecdsaVerifyOutcome Q z b) :=
  within_guard (within_guard (within_okRes _ hp))

theorem within_verifyOutcome (b : Block) (pred : List Byte → List Byte → Bool) (hp : isPredicate i = true) :
    Within i (verifyOutcome b pred) :=
  within_guard (within_guard (within_okRes _ hp))

theorem within_tweakOutcome (px : Nat) (r : List Byte) (h : [rd] ⊆ dests i) (hp : isPredicate i = true) :
    Within i (tweakOutcome rd px r) := by
  unfold tweakOutcome
  split
  · exact within_error i _
  · exact within_regs h (res_of_isPredicate hp _)

end

end Sys2Proof.Machine
end

section
/-! The frame of every command, from what its outcomes may write. -/

namespace Sys2Proof.Machine

/-- A command's run ends in one completion within its own writes, or in a rejection loop over such completions. -/
inductive RunsWithin (i : Instr) (s : State) : Host.Outcome State Fault Refusal → Prop
  | finish {o : EngineOutcome} (h : Within i o) : RunsWithin i s (s.finish o)
  | finishDrawn {accept : Nat → Bool} {f : Nat → EngineOutcome} (h : ∀ v, Within i (f v)) :
      RunsWithin i s (s.finishDrawn accept f)

/-- Every command keeps to its own writes. -/
theorem exec_runsWithin (i : Instr) (s : State) : RunsWithin i s (exec i s) := by
  have own {l : List Reg} : l ⊆ l := List.Subset.refl l
  cases i with
  | nop => exact .finish (within_regs (List.nil_subset _) fun _ => rfl)
  | ldc => exact .finish (within_okReg _ own)
  | modmul => exact .finish (within_modmulOutcome _ _ _ own)
  | modmulS => exact .finish (within_modmulOutcome _ _ _ own)
  | modinv => exact .finish (within_modinvOutcome _ _ own)
  | modinvS => exact .finish (within_modinvOutcome _ _ own)
  | modexp => exact .finish (within_modexpOutcome _ _ _ own)
  | modexpS => exact .finish (within_modexpOutcome _ _ _ own)
  | padd => exact .finish (within_okTriple _ own)
  | pdbl => exact .finish (within_okTriple _ own)
  | pneg => exact .finish (within_okTriple _ own)
  | psub => exact .finish (within_okTriple _ own)
  | paff => exact .finish (within_paffOutcome _ own)
  | pmul => exact .finish (within_pmulOutcome _ _ own)
  | pmulS => exact .finish (within_pmulOutcome _ _ own)
  | pmulg => exact .finish (within_pmulOutcome _ _ own)
  | pmulgS => exact .finish (within_pmulOutcome _ _ own)
  | pencC => exact .finish (within_okBuf rfl (by simp [bufCapacity]))
  | pencU => exact .finish (within_okBuf rfl (by simp [bufCapacity]))
  | pencX => exact .finish (within_pencXOutcome _ rfl rfl)
  | pdec => exact .finish (within_pdecOutcome _ own)
  | pdecX => exact .finish (within_pdecOutcome _ own)
  | pvalid => exact .finish (within_okRes _ rfl)
  | peq => exact .finish (within_okRes _ rfl)
  | keygen rd => exact .finishDrawn (within_keygenOutcome rd)
  | ecdsaSign => exact .finish (within_ecdsaSign _ _ _ _ rfl)
  | ecdsaSignR rs1 rs2 =>
    simp only [exec, execEcdsaSignR]
    split
    · exact .finish (within_error _ _)
    · exact .finishDrawn fun _ => within_ecdsaSign _ _ _ _ rfl
  | ecdsaVerify => exact .finish (within_ecdsaVerifyOutcome _ _ _ rfl)
  | ecdsaRecover => exact .finish (within_recoverOutcome _ _ own rfl)
  | schnorrSign => exact .finish (within_schnorrSignOutcome _ _ _ rfl)
  | schnorrVerify => exact .finish (within_verifyOutcome _ _ rfl)
  | tapTweak => exact .finish (within_tweakOutcome _ _ own rfl)
  | tapTweakN => exact .finish (within_tweakOutcome _ _ own rfl)
  | tapSign => exact .finish (within_tapSignOutcome _ _ _ _ rfl)
  | tapSignN => exact .finish (within_tapSignOutcome _ _ _ _ rfl)
  | tapVerify => exact .finish (within_verifyOutcome _ _ rfl)
  | tapVerifyN => exact .finish (within_verifyOutcome _ _ rfl)
  | h2c => exact .finish (within_h2cOutcome _ own)

/-- What a command does: the block completes with an outcome within the command's own writes, or it stays as it is while
the command goes on drawing; the host's side of the model is not touched. -/
theorem exec_next_within {i : Instr} {s t : State} (h : exec i s = .next t) :
    SameAgents s t ∧ (t.toBlock = s.toBlock ∨ ∃ o, Within i o ∧ t.toBlock = s.toBlock.complete o) := by
  have hrun := exec_runsWithin i s
  generalize exec i s = r at h hrun
  cases hrun with
  | finish ho =>
    cases Host.Outcome.next.inj h
    exact ⟨⟨rfl, rfl, rfl⟩, .inr ⟨_, ho, rfl⟩⟩
  | @finishDrawn accept f hf =>
    obtain ⟨ds, k, ⟨v, -, hv⟩ | hn⟩ := s.finishDrawn_cases accept f
    · cases Host.Outcome.next.inj (h.symm.trans hv)
      exact ⟨⟨rfl, rfl, rfl⟩, .inr ⟨_, hf v, rfl⟩⟩
    · cases Host.Outcome.next.inj (h.symm.trans hn)
      exact ⟨⟨rfl, rfl, rfl⟩, .inl rfl⟩

/-! ## What a completion leaves alone -/

section
variable {i : Instr} {o : EngineOutcome} (b : Block) (ho : Within i o)
include ho

/-- R32: only the destinations change among the operand registers. -/
theorem Block.reg_complete_other (j : Reg) (hj : j ∉ dests i) : (b.complete o).reg j = b.reg j := by
  cases o with
  | error c => exact Block.reg_eq _ _ rfl j
  | ok e =>
    have hregs : (b.complete (.ok e)).regs = (b.setRegs e.regs).regs := by simp [Block.complete_ok]
    rw [Block.reg_eq _ _ hregs]
    refine b.reg_setRegs_other e.regs j fun w hw hjw => hj ?_
    exact hjw ▸ Permitted.regs ho (List.mem_map_of_mem hw)

/-- R47: only a predicate command writes RESULT. -/
theorem Block.res_complete (hp : isPredicate i = false) : (b.complete o).res = b.res := by
  cases o with
  | error c => rfl
  | ok e => simp [Block.complete_ok, Permitted.res ho hp]

/-- A completion leaves the memory and BUFLEN as they are, or its command writes BUF and it puts at most 128 bytes there
(R34, R37). -/
theorem Block.complete_mem_cases :
    ((b.complete o).mem = b.mem ∧ (b.complete o).buflen = b.buflen) ∨
    (writesBuf i = true ∧ ∃ bytes : List Byte, bytes.length ≤ bufCapacity ∧
      (b.complete o).mem = b.mem.writeBytes bufBase bytes) := by
  cases o with
  | error c => exact .inl ⟨rfl, rfl⟩
  | ok e =>
    cases hbuf : e.buf with
    | none => exact .inl (by simp [Block.complete_ok, hbuf])
    | some bytes =>
      obtain ⟨hw, hl⟩ := Permitted.buf ho bytes hbuf
      exact .inr ⟨hw, bytes, hl, by simp [Block.complete_ok, hbuf]⟩

/-- A completion keeps the canonical form of the memory. -/
theorem Block.wf_complete (hwf : b.mem.wf) : (b.complete o).mem.wf := by
  obtain ⟨hmem, -⟩ | ⟨-, bytes, hl, hmem⟩ := b.complete_mem_cases ho
  · rw [hmem]; exact hwf
  · rw [hmem]; exact b.wf_putBuf bytes hwf hl

/-- A completion keeps every byte outside BUF (R35, R36). -/
theorem Block.read_complete_other (hwf : b.mem.wf) (a : Nat) (ha : ¬(0x100 ≤ a ∧ a < 0x180)) :
    (b.complete o).mem.read a = b.mem.read a := by
  obtain ⟨hmem, -⟩ | ⟨-, bytes, hl, hmem⟩ := b.complete_mem_cases ho
  · rw [hmem]
  · have hbuf (k : Nat) (hk : k < bytes.length) : isBufferByte (bufBase + k) = true :=
      isBufferByte_buf k (hk.trans_le hl)
    rw [hmem]
    refine Memory.read_writeBytes_other bytes b.mem bufBase a hwf hbuf ?_
    simp only [bufBase, bufCapacity] at hl ⊢
    omega

theorem Block.sameHostSide_complete (hwf : b.mem.wf) : SameHostSide b (b.complete o) := by
  obtain ⟨hmsg, hdst, hie, hovr, hwbusy, hcmd⟩ := b.complete_keeps o
  exact ⟨b.read_complete_other ho hwf, hmsg, hdst, hie, hovr, hwbusy, hcmd⟩

end

/-- Settles O9: every outcome of a command keeps to the command's own writes. -/
theorem commandsWriteOnlyTheirOwn : Obligations.CommandsWriteOnlyTheirOwn := by
  unfold Obligations.CommandsWriteOnlyTheirOwn
  intro i s t h
  obtain ⟨-, hsame | ⟨o, ho, hcomp⟩⟩ := exec_next_within h
  · simp [Block.reg, SameMem, hsame]
  · rw [hcomp]
    refine ⟨s.reg_complete_other ho, s.res_complete ho, fun hw => ?_⟩
    obtain ⟨hmem, hlen⟩ | ⟨hw', -⟩ := s.complete_mem_cases ho
    · exact ⟨fun a => by rw [hmem], hlen⟩
    · exact absurd (hw.symm.trans hw') (by decide)

/-- Settles O10: the bytes a command writes lie in BUF, and a completion touches none of the host's registers. -/
theorem commandsKeepHostSide : Obligations.CommandsKeepHostSide := by
  unfold Obligations.CommandsKeepHostSide
  intro i s t hwf h
  obtain ⟨hagents, hsame | ⟨o, ho, hcomp⟩⟩ := exec_next_within h
  · rw [hsame]
    exact ⟨⟨fun _ _ => rfl, rfl, rfl, rfl, rfl, rfl, rfl⟩, hagents⟩
  · rw [hcomp]
    exact ⟨s.sameHostSide_complete ho hwf, hagents⟩

end Sys2Proof.Machine
end

section
/-! The invariant holds after reset and is kept by every step: by the host's accesses and by the engine's turn. -/

namespace Sys2Proof.Machine

theorem inv_reset : Inv Block.reset := ⟨Memory.wf_reset, by decide, by decide, by decide⟩

/-! ## The engine's turn -/

theorem inv_complete {i : Instr} {o : EngineOutcome} {b : Block} (ho : Within i o) (hb : Inv b) :
    Inv (b.complete o) := by
  have hmem := b.wf_complete ho hb.mem
  obtain ⟨hbusy, -⟩ := b.complete_idle o
  obtain ⟨e, -, herr, hcode⟩ | ⟨c, -, herr, hcode⟩ := b.complete_code o
  · exact ⟨hmem, by simp [hcode], by simp [hbusy], by simp [herr]⟩
  · exact ⟨hmem, hcode ▸ c.code_le, by simp [hbusy], fun _ => hcode ▸ c.code_ne_zero⟩

theorem inv_exec {i : Instr} {s t : State} (hs : Inv s.toBlock) (h : exec i s = .next t) : Inv t.toBlock := by
  obtain ⟨-, hsame | ⟨o, ho, hcomp⟩⟩ := exec_next_within h
  · rwa [hsame]
  · rw [hcomp]
    exact inv_complete ho hs

theorem inv_execIllegal {s t : State} (hs : Inv s.toBlock) (h : execIllegal s = .next t) : Inv t.toBlock := by
  cases Host.Outcome.next.inj h
  exact inv_complete (within_error .nop .illegal) hs

theorem inv_engineTurn {s t : State} (hs : Inv s.toBlock) (h : engineTurn s = .next t) : Inv t.toBlock := by
  simp only [engineTurn, runCommand] at h
  split at h
  · split at h
    · exact inv_exec hs h
    · exact inv_execIllegal hs h
  · exact Host.Outcome.next.inj h ▸ hs

/-! ## The host's accesses -/

/-- The acceptance of a word clears the flags that a command in flight needs clear (R122). -/
theorem inv_accept {b : Block} (hb : Inv b) (w : Word) : Inv (b.accept w) :=
  ⟨hb.mem, by simp, by simp, by simp⟩

/-- A STATUS write clears flags and sets none (R43). -/
theorem inv_clearStatus {b : Block} (hb : Inv b) (w : Word) : Inv (b.clearStatus w) where
  mem := hb.mem
  code := hb.code
  flight h := by
    obtain ⟨hdone, herr, hcode⟩ := hb.flight h
    simp [hdone, herr, hcode]
  coded h := hb.coded (Bool.and_eq_true_iff.mp h).1

theorem inv_setDataWord {b : Block} (hb : Inv b) (a : Nat) (w : Word) : Inv (b.setDataWord a w) := by
  obtain ⟨-, -, -, -, hbusy, hdone, herr, -, -, -, hcode, -⟩ := b.setDataWord_keeps a w
  refine ⟨b.wf_setDataWord a w hb.mem, ?_, ?_, ?_⟩
  · rw [hcode]; exact hb.code
  · rw [hbusy, hdone, herr, hcode]; exact hb.flight
  · rw [herr, hcode]; exact hb.coded

/-- A write dropped by BUSY = 1 sets WBUSY, of which the invariant says nothing (R80). -/
theorem inv_guardBusy {b new : Block} (hb : Inv b) (hn : Inv new) : Inv (b.guardBusy new) := by
  unfold Block.guardBusy
  split
  · exact ⟨hb.mem, hb.code, hb.flight, hb.coded⟩
  · exact hn

theorem inv_writeWord {b : Block} (hb : Inv b) (o : Offset) (w : Word) : Inv (b.writeWord o w) := by
  obtain ⟨hmem, hcode, hflight, hcoded⟩ := id hb
  unfold Block.writeWord
  cases windowWord o with
  | id => exact hb
  | ctrl => exact ⟨hmem, hcode, hflight, hcoded⟩
  | status => exact inv_clearStatus hb w
  | cmd =>
    dsimp only
    split
    · exact ⟨hmem, hcode, hflight, hcoded⟩
    · exact inv_accept hb w
  | errcode => exact hb
  | result => exact hb
  | buflen => exact inv_guardBusy hb ⟨hmem, hcode, hflight, hcoded⟩
  | msglen => exact inv_guardBusy hb ⟨hmem, hcode, hflight, hcoded⟩
  | dstlen => exact inv_guardBusy hb ⟨hmem, hcode, hflight, hcoded⟩
  | data => exact inv_guardBusy hb (inv_setDataWord hb _ w)
  | reserved => exact hb

theorem inv_hostMove {s : State} (hs : Inv s.toBlock) (m : HostMove) : Inv (s.hostMove m).toBlock := by
  obtain ⟨k, r, h⟩ | ⟨o, w, -, -, -, h⟩ | ⟨o, w, -, -, -, h⟩ := s.hostMove_cases m
  · rw [h]; exact hs
  · rw [h]; exact inv_writeWord hs o w
  · rw [h]; exact inv_reset

/-- Settles O57: no byte is listed and every flag is clear. -/
theorem resetMeetsInvariant : Obligations.ResetMeetsInvariant := inv_reset

/-- Settles O58, by the three kinds of event: a completion writes only what its command may, a host access keeps the
canonical memory and the flags, and a reset meets the invariant by itself. -/
theorem stepKeepsInvariant : Obligations.StepKeepsInvariant := by
  unfold Obligations.StepKeepsInvariant
  intro s t hs h
  have hpast : Inv s.past.toBlock := hs
  obtain ⟨-, he⟩ | ⟨m, -, he⟩ | ⟨-, he⟩ := step_cases s
  · exact inv_engineTurn hpast (he.symm.trans h)
  · cases Host.Outcome.next.inj (he.symm.trans h)
    exact inv_hostMove hpast m
  · cases Host.Outcome.next.inj (he.symm.trans h)
    exact inv_reset

end Sys2Proof.Machine
end

section
/-! Resets (R55, R310 to R312), reads of the control registers (R40 to R47) and the interrupt output (R53). -/

namespace Sys2Proof.Machine

/-! ## Resets -/

theorem atReset_reset : AtReset Block.reset where
  regs i := by simp [Block.reg, Block.reset]
  mem _ := rfl
  buflen := rfl
  msglen := rfl
  dstlen := rfl
  ctrl := ⟨rfl, by decide⟩
  status := ⟨rfl, rfl, rfl, rfl, rfl⟩
  cmdlast := rfl
  errcode := rfl
  res := rfl
  irq := rfl
  id := by decide

theorem step_hardReset (s : State) (h : ∃ rest, s.script = .hardReset :: rest) :
    step s = .next s.past.resetBlock := by
  obtain ⟨rest, hr⟩ := h
  simp [step, hr, State.past]

/-- A CTRL write resets the block when SRST is written as 1, and sets IE otherwise (R42, R312). -/
theorem State.hostWrite_ctrl (s : State) (w : Word) :
    s.hostWrite 0x004 w =
      if w.getLsbD 1 then s.resetBlock else { s with ie := w.getLsbD 0, reply := .nothing } := by
  have hword : windowWord 0x004 = .ctrl := by decide
  simp only [State.hostWrite, isSoftReset, Block.writeWord, hword, beq_self_eq_true, Bool.true_and]

/-- Settles O48: both resets put the block in its reset state, whatever it held. -/
theorem resetsGiveEveryResetValue : Obligations.ResetsGiveEveryResetValue := by
  unfold Obligations.ResetsGiveEveryResetValue
  refine ⟨atReset_reset, fun s => ⟨fun h => ?_, fun w hw h => ?_⟩⟩
  · exact ⟨_, step_hardReset s h, atReset_reset, rfl⟩
  · have hstep := step_write s 0x004 w h (by decide)
    rw [State.hostWrite_ctrl, if_pos hw] at hstep
    exact ⟨_, hstep, atReset_reset, rfl⟩

/-! ## Reads of the control and status registers -/

/-- A read of a word that is no data word answers the block's word, at all times. -/
theorem State.hostRead_of_not_data (s : State) (o : Offset) (h : windowWord o ≠ .data) :
    s.hostRead o = { s with reply := .word (s.readWord o) } := by
  simp [State.hostRead, h]

theorem Block.toNat_ctrlWord (b : Block) : b.ctrlWord.toNat = b.ie.toNat := by
  cases h : b.ie <;> simp [Block.ctrlWord, h]

theorem Block.toNat_resultWord (b : Block) : b.resultWord.toNat = b.res.toNat := by
  cases h : b.res <;> simp [Block.resultWord, h]

theorem Block.toNat_errcodeWord (b : Block) : b.errcodeWord.toNat = b.errcode.toNat :=
  BitVec.toNat_setWidth_of_le (by decide)

/-- STATUS has its five bits in the order of R43. -/
theorem Block.toNat_statusWord (b : Block) : b.statusWord.toNat =
    b.busy.toNat + 2 * b.done.toNat + 4 * b.err.toNat + 8 * b.ovr.toNat + 16 * b.wbusy.toNat := by
  have hbits (busy done err ovr wbusy : Bool) :
      ((0 : BitVec 27) ++ BitVec.ofBool wbusy ++ BitVec.ofBool ovr ++ BitVec.ofBool err ++ BitVec.ofBool done ++
        BitVec.ofBool busy).toNat = busy.toNat + 2 * done.toNat + 4 * err.toNat + 8 * ovr.toNat + 16 * wbusy.toNat := by
    revert busy done err ovr wbusy
    decide
  exact hbits ..

/-- The words below 0x024 hold no data byte (R40, R72). -/
theorem windowWord_ne_data (o : Offset) (hlt : o.toNat < 0x024) (ha : o.toNat % 4 = 0) : windowWord o ≠ .data := by
  have hno : ¬(0x100 ≤ o.toNat ∧ o.toNat < 0x180 ∨ 0x200 ≤ o.toNat ∧ o.toNat < 0x300 ∨
      0x400 ≤ o.toNat ∧ o.toNat < 0xC00) := by omega
  simp only [windowWord_aligned o ha, hno, if_false]
  split_ifs <;> decide

/-- Settles O49: no control word is a data word, so it reads as the block's word and changes nothing but the reply. -/
theorem controlReads : Obligations.ControlReads := by
  unfold Obligations.ControlReads
  intro s o h hlt ha
  have hstep := step_read s o h ha
  rw [State.hostRead_of_not_data _ _ (windowWord_ne_data o hlt ha)] at hstep
  refine ⟨_, _, hstep, rfl, rfl, ?_, ?_, ?_, ?_, ?_, ?_, ?_, ?_, ?_⟩ <;> rintro rfl
  · rfl
  · exact s.toNat_ctrlWord
  · exact s.toNat_statusWord
  · rfl
  · exact s.toNat_errcodeWord
  · exact s.toNat_resultWord
  · exact BitVec.toNat_setWidth_of_le (by decide)
  · exact BitVec.toNat_setWidth_of_le (by decide)
  · exact BitVec.toNat_setWidth_of_le (by decide)

/-! ## The interrupt output -/

theorem step_host (s : State) (m : HostMove) (h : HostNext s m) : step s = .next (s.past.hostMove m) := by
  obtain ⟨rest, hr⟩ := h
  simp [step, hr, State.past]

theorem State.hostWrite_status (s : State) (w : Word) :
    s.hostWrite 0x008 w = { s with toBlock := s.toBlock.clearStatus w, reply := .nothing } := by
  have hword : windowWord 0x008 = .status := by decide
  simp only [State.hostWrite, isSoftReset, Block.writeWord, hword]
  rfl

/-- No host write but a reset ends a command in flight (R313). -/
theorem Block.busy_writeWord (b : Block) (o : Offset) (w : Word) (h : b.busy = true) :
    (b.writeWord o w).busy = true := by
  have hguard (new : Block) : (b.guardBusy new).busy = true := by simp [Block.guardBusy, h]
  unfold Block.writeWord
  split <;> simp [h, hguard]

/-- A step that ends a command in flight with DONE = 1 is its completion, which leaves IE alone (R124). -/
theorem ie_of_completion {s t : State} (hb : s.busy = true) (h : step s = .next t) (hidle : t.busy = false)
    (hdone : t.done = true) : t.ie = s.ie := by
  have hpast : s.past.busy = true := hb
  obtain ⟨-, he⟩ | ⟨m, -, he⟩ | ⟨-, he⟩ := step_cases s
  · obtain ⟨ds, k, ⟨-, o, hn⟩ | hn⟩ := engineTurn_next s.past
    · cases Host.Outcome.next.inj (h.symm.trans (he.trans hn))
      obtain ⟨-, -, hie, -⟩ := s.complete_keeps o
      exact hie
    · cases Host.Outcome.next.inj (h.symm.trans (he.trans hn))
      rfl
  · cases Host.Outcome.next.inj (h.symm.trans he)
    obtain ⟨k, r, hm⟩ | ⟨o, w, -, -, -, hm⟩ | ⟨o, w, -, -, -, hm⟩ := s.past.hostMove_cases m
    · rw [hm]
      rfl
    · rw [hm] at hidle
      exact absurd ((s.past.busy_writeWord o w hpast).symm.trans hidle) (by decide)
    · rw [hm] at hdone
      exact absurd hdone Bool.false_ne_true
  · cases Host.Outcome.next.inj (h.symm.trans he)
    exact absurd hdone Bool.false_ne_true

/-- Settles O56: a STATUS write acts on the flags alone, a CTRL write on IE alone, and a completion leaves IE as it was. -/
theorem statusAndInterrupt : Obligations.StatusAndInterrupt := by
  unfold Obligations.StatusAndInterrupt
  refine fun s => ⟨step_host s .observeIrq, fun w h => ?_, fun w hw h => ?_, fun t hb h hidle hdone => ?_⟩
  · have hstep := step_write s 0x008 w h (by decide)
    rw [State.hostWrite_status] at hstep
    exact ⟨_, hstep, rfl, fun hw => by simp [Block.irq, hw]⟩
  · have hstep := step_write s 0x004 w h (by decide)
    rw [State.hostWrite_ctrl, if_neg (hw ▸ Bool.false_ne_true)] at hstep
    exact ⟨_, hstep, rfl, rfl⟩
  · rw [Block.irq, hdone, Bool.and_true]
    exact ie_of_completion hb h hidle hdone

end Sys2Proof.Machine
end

section
/-! The bytes of the host's window (R72 to R78): where they lie, and what they hold before and after a write. -/

namespace Sys2Proof.Machine

/-! ## The address map (R72) -/

theorem isBufferByte_iff (a : Nat) : isBufferByte a = true ↔
    0x100 ≤ a ∧ a < 0x180 ∨ 0x200 ≤ a ∧ a < 0x2FF ∨ 0x800 ≤ a ∧ a < 0xC00 := by
  simp only [isBufferByte, Bool.or_eq_true, Bool.and_eq_true, decide_eq_true_eq, or_assoc]
  rfl

theorem isRegByte_iff (a : Nat) : isRegByte a = true ↔ 0x400 ≤ a ∧ a < 0x800 := by
  simp only [isRegByte, Bool.and_eq_true, decide_eq_true_eq]
  rfl

theorem windowWord_data (o : Offset) (ha : o.toNat % 4 = 0)
    (h : 0x100 ≤ o.toNat ∧ o.toNat < 0x180 ∨ 0x200 ≤ o.toNat ∧ o.toNat < 0x300 ∨ 0x400 ≤ o.toNat ∧ o.toNat < 0xC00) :
    windowWord o = .data := by
  have hctrl (k : Nat) (hk : k < 0x100) : o.toNat ≠ k := by omega
  simp [windowWord_aligned o ha, h, hctrl]

theorem windowWord_length (o : Offset) (ha : o.toNat % 4 = 0) (h : 0x018 ≤ o.toNat ∧ o.toNat < 0x024) :
    windowWord o = .buflen ∨ windowWord o = .msglen ∨ windowWord o = .dstlen := by
  obtain h | h | h : o.toNat = 0x018 ∨ o.toNat = 0x01C ∨ o.toNat = 0x020 := by omega
  all_goals simp [windowWord_aligned o ha, h]

theorem windowWord_reserved (o : Offset) (ha : o.toNat % 4 = 0)
    (h : 0x024 ≤ o.toNat ∧ o.toNat < 0x100 ∨ 0x180 ≤ o.toNat ∧ o.toNat < 0x200 ∨ 0x300 ≤ o.toNat ∧ o.toNat < 0x400 ∨
      0xC00 ≤ o.toNat) : windowWord o = .reserved := by
  have hctrl (k : Nat) (hk : k < 0x024) : o.toNat ≠ k := by omega
  have hdata : ¬(0x100 ≤ o.toNat ∧ o.toNat < 0x180 ∨ 0x200 ≤ o.toNat ∧ o.toNat < 0x300 ∨
      0x400 ≤ o.toNat ∧ o.toNat < 0xC00) := by omega
  simp [windowWord_aligned o ha, hdata, hctrl]

/-- Byte j of register i lies at 0x400 + 32·i + j (R72, R77). -/
theorem regAt_add (i : Reg) (j : Nat) (hj : j < 32) : regAt (0x400 + 32 * i.val + j) = i := by
  ext
  simp only [regAt, regBase, Fin.ofNat]
  omega

theorem regByteAt_add (i : Reg) (j : Nat) (hj : j < 32) : regByteAt (0x400 + 32 * i.val + j) = j := by
  simp only [regByteAt, regBase]
  omega

theorem isRegByte_add (i : Reg) (j : Nat) (hj : j < 32) : isRegByte (0x400 + 32 * i.val + j) = true := by
  rw [isRegByte_iff]
  omega

theorem isBufferByte_of_isRegByte (a : Nat) (h : isRegByte a = true) : isBufferByte a = false := by
  rw [isRegByte_iff] at h
  rw [← Bool.not_eq_true, isBufferByte_iff]
  omega

/-- Two bytes of one register are two bytes of its value (R72). -/
theorem regByteAt_ne (a c : Nat) (ha : isRegByte a = true) (hc : isRegByte c = true) (hne : c ≠ a)
    (h : regAt c = regAt a) : regByteAt c ≠ regByteAt a := by
  rw [isRegByte_iff] at ha hc
  have hreg := congrArg Fin.val h
  simp only [regAt, regByteAt, regBase, Fin.ofNat] at hreg ⊢
  omega

/-! ## Bytes of the window -/

theorem Block.byteAt_buffer (b : Block) (a : Nat) (h : isBufferByte a = true) : b.byteAt a = b.mem.read a := by
  simp [Block.byteAt, h]

theorem Block.byteAt_reg (b : Block) (i : Reg) (j : Nat) (hj : j < 32) :
    b.byteAt (0x400 + 32 * i.val + j) = valByte (b.reg i) j := by
  have hr := isRegByte_add i j hj
  simp [Block.byteAt, hr, isBufferByte_of_isRegByte _ hr, regAt_add i j hj, regByteAt_add i j hj]

/-- The reserved byte lane 0x2FF reads 0 (R82). -/
theorem Block.byteAt_reserved_lane (b : Block) : b.byteAt 0x2FF = 0 := rfl

/-- In canonical memory a byte outside the buffers is not listed. -/
theorem Memory.read_of_not_buffer (m : Memory) (a : Nat) (hwf : m.wf) (h : isBufferByte a = false) : m.read a = 0 := by
  obtain ⟨-, hlisted⟩ := hwf
  induction m with
  | nil => rfl
  | cons c m ih =>
    have hne : a ≠ c.1 := fun e => Bool.false_ne_true (h.symm.trans (e ▸ (hlisted c (by simp)).2))
    simpa [Memory.read, hne] using ih fun d hd => hlisted d (by simp [hd])

theorem Block.read_eq_byteAt (b : Block) (hwf : b.mem.wf) (a : Nat) :
    b.mem.read a = if isBufferByte a then b.byteAt a else 0 := by
  split
  · next h => exact (b.byteAt_buffer a h).symm
  · next h => exact b.mem.read_of_not_buffer a hwf (Bool.not_eq_true _ ▸ h)

/-! ## Writes of bytes -/

/-- A byte write leaves every other byte of the window alone (R75). -/
theorem Block.byteAt_setByteAt_other (b : Block) (a c : Nat) (v : Byte) (hwf : b.mem.wf) (hne : c ≠ a) :
    (b.setByteAt a v).byteAt c = b.byteAt c := by
  obtain ⟨-, he⟩ | ⟨-, ha, he⟩ | ⟨-, -, he⟩ := b.setByteAt_cases a v
  · rw [he]
    simp only [Block.byteAt, b.mem.read_write_other a c v hwf.1 hne]
    rfl
  · rw [he]
    simp only [Block.byteAt, Block.setReg_mem]
    split
    · rfl
    · split
      · next hc =>
        by_cases hr : regAt c = regAt a
        · have hbyte := regByteAt_ne a c ha hc hne hr
          rw [hr, Block.reg_setReg_self]
          exact valByte_setValByte_other _ _ _ _ (Nat.mod_lt _ (by omega)) (Nat.mod_lt _ (by omega)) hbyte
        · rw [Block.reg_setReg_other _ _ _ _ hr]
      · rfl
  · rw [he]

/-- A byte of BUF, DST, MSG or a register after a byte write. -/
theorem Block.byteAt_setByteAt (b : Block) (a c : Nat) (v : Byte) (hwf : b.mem.wf)
    (hc : isBufferByte c = true ∨ isRegByte c = true) :
    (b.setByteAt a v).byteAt c = if c = a then v else b.byteAt c := by
  split
  · next h => exact h ▸ b.byteAt_setByteAt_self c v hwf hc
  · next h => exact b.byteAt_setByteAt_other a c v hwf h

theorem Block.setByteAt_reg (b : Block) (i : Reg) (j : Nat) (v : Byte) (hj : j < 32) :
    b.setByteAt (0x400 + 32 * i.val + j) v = b.setReg i (setValByte (b.reg i) j v) := by
  have hr := isRegByte_add i j hj
  simp [Block.setByteAt, hr, isBufferByte_of_isRegByte _ hr, regAt_add i j hj, regByteAt_add i j hj]

theorem Block.setByteAt_of_not_reg (b : Block) (a : Nat) (v : Byte) (h : isRegByte a = false) :
    ∃ m, b.setByteAt a v = { b with mem := m } := by
  obtain ⟨-, he⟩ | ⟨-, hr, -⟩ | ⟨-, -, he⟩ := b.setByteAt_cases a v
  · exact ⟨_, he⟩
  · exact absurd (hr.symm.trans h) (by decide)
  · exact ⟨b.mem, he⟩

/-! ## Data words -/

/-- Byte k of a data word is the byte at offset a + k (R74). -/
theorem Block.lane_dataWord (b : Block) (a k : Nat) (hk : k < 4) : lane (b.dataWord a) k = b.byteAt (a + k) := by
  obtain ⟨h0, h1, h2, h3⟩ := lane_packLanes (b.byteAt a) (b.byteAt (a + 1)) (b.byteAt (a + 2)) (b.byteAt (a + 3))
  match k, hk with
  | 0, _ => exact h0
  | 1, _ => exact h1
  | 2, _ => exact h2
  | 3, _ => exact h3

section
variable (b : Block) (a : Nat) (w : Word) (hwf : b.mem.wf)
include hwf

/-- A byte of BUF, DST, MSG or a register after a word write: the last of the four byte writes that names it. -/
theorem Block.byteAt_setDataWord_ite (c : Nat) (hc : isBufferByte c = true ∨ isRegByte c = true) :
    (b.setDataWord a w).byteAt c = if c = a + 3 then lane w 3 else if c = a + 2 then lane w 2
      else if c = a + 1 then lane w 1 else if c = a then lane w 0 else b.byteAt c := by
  have h1 := b.wf_setByteAt a (lane w 0) hwf
  have h2 := Block.wf_setByteAt _ (a + 1) (lane w 1) h1
  have h3 := Block.wf_setByteAt _ (a + 2) (lane w 2) h2
  rw [Block.setDataWord, Block.byteAt_setByteAt _ _ _ _ h3 hc, Block.byteAt_setByteAt _ _ _ _ h2 hc,
    Block.byteAt_setByteAt _ _ _ _ h1 hc, Block.byteAt_setByteAt _ _ _ _ hwf hc]

/-- A word write puts lane k of the word in the byte at offset a + k (R75). -/
theorem Block.byteAt_setDataWord (k : Nat) (hk : k < 4)
    (hc : isBufferByte (a + k) = true ∨ isRegByte (a + k) = true) :
    (b.setDataWord a w).byteAt (a + k) = lane w k := by
  rw [b.byteAt_setDataWord_ite a w hwf (a + k) hc]
  interval_cases k <;> simp

/-- A word write leaves the other bytes of the window alone (R75). -/
theorem Block.byteAt_setDataWord_other (c : Nat) (hc : isBufferByte c = true ∨ isRegByte c = true)
    (hout : ¬(a ≤ c ∧ c < a + 4)) : (b.setDataWord a w).byteAt c = b.byteAt c := by
  rw [b.byteAt_setDataWord_ite a w hwf c hc, if_neg (by omega), if_neg (by omega), if_neg (by omega),
    if_neg (by omega)]

end

/-- A write of a word without a register byte changes the memory alone. -/
theorem Block.setDataWord_of_not_reg (b : Block) (a : Nat) (w : Word) (h : ∀ k < 4, isRegByte (a + k) = false) :
    ∃ m, b.setDataWord a w = { b with mem := m } := by
  obtain ⟨m0, h0⟩ := b.setByteAt_of_not_reg a (lane w 0) (h 0 (by omega))
  obtain ⟨m1, h1⟩ := Block.setByteAt_of_not_reg { b with mem := m0 } (a + 1) (lane w 1) (h 1 (by omega))
  obtain ⟨m2, h2⟩ := Block.setByteAt_of_not_reg { b with mem := m1 } (a + 2) (lane w 2) (h 2 (by omega))
  obtain ⟨m3, h3⟩ := Block.setByteAt_of_not_reg { b with mem := m2 } (a + 3) (lane w 3) (h 3 (by omega))
  exact ⟨m3, by rw [Block.setDataWord, h0, h1, h2, h3]⟩

@[simp] theorem Block.setReg_setReg (b : Block) (i : Reg) (u v : Val) : (b.setReg i u).setReg i v = b.setReg i v := by
  simp [Block.setReg]

/-- A write of a register word changes that register alone. -/
theorem Block.setDataWord_reg (b : Block) (i : Reg) (q : Nat) (w : Word) (hq : q < 8) :
    ∃ v, b.setDataWord (0x400 + 32 * i.val + 4 * q) w = b.setReg i v := by
  have hbyte (c : Block) (k : Nat) (hk : k < 4) (v : Byte) :
      c.setByteAt (0x400 + 32 * i.val + 4 * q + k) v = c.setReg i (setValByte (c.reg i) (4 * q + k) v) := by
    rw [Nat.add_assoc]
    exact c.setByteAt_reg i (4 * q + k) v (by omega)
  have h0 : b.setByteAt (0x400 + 32 * i.val + 4 * q) (lane w 0) = _ := hbyte b 0 (by omega) (lane w 0)
  rw [Block.setDataWord, h0, hbyte _ 1 (by omega), hbyte _ 2 (by omega), hbyte _ 3 (by omega),
    Block.setReg_setReg, Block.setReg_setReg, Block.setReg_setReg]
  exact ⟨_, rfl⟩

/-- A register byte in the bits of R78: word q of a register is the value's bits [255 − 32q : 224 − 32q]. -/
theorem valByte_of_word (v : Val) (q k : Nat) (hq : q < 8) (hk : k < 4) :
    v.extractLsb' (224 - 32 * q + 8 * (3 - k)) 8 = valByte v (4 * q + k) := by
  rw [valByte, show 8 * (31 - (4 * q + k)) = 224 - 32 * q + 8 * (3 - k) by omega]

/-- The register clause of R78, by the register's bytes (R77). -/
theorem Block.byteAt_regWord (b : Block) (i : Reg) (q k : Nat) (hq : q < 8) (hk : k < 4) :
    b.byteAt (0x400 + 32 * i.val + 4 * q + k) = (b.reg i).extractLsb' (224 - 32 * q + 8 * (3 - k)) 8 := by
  rw [valByte_of_word _ q k hq hk, Nat.add_assoc]
  exact b.byteAt_reg i (4 * q + k) (by omega)

section
variable (b : Block) (a : Nat) (w : Word) (hwf : b.mem.wf)
include hwf

/-- A write of a word of BUF, DST or MSG: its bytes, the other bytes, and the rest of the block (R75). -/
theorem Block.setDataWord_bufferWord (ha : a % 4 = 0)
    (hr : 0x100 ≤ a ∧ a < 0x180 ∨ 0x200 ≤ a ∧ a < 0x300 ∨ 0x800 ≤ a ∧ a < 0xC00) :
    (∀ k, k < 4 → a + k ≠ 0x2FF → (b.setDataWord a w).mem.read (a + k) = lane w k) ∧
    (∀ c, ¬(a ≤ c ∧ c < a + 4) → (b.setDataWord a w).mem.read c = b.mem.read c) ∧
    { b.setDataWord a w with mem := b.mem } = b := by
  refine ⟨fun k hk hlane => ?_, fun c hc => ?_, ?_⟩
  · have hbuf : isBufferByte (a + k) = true := (isBufferByte_iff _).mpr (by omega)
    rw [← Block.byteAt_buffer _ _ hbuf]
    exact b.byteAt_setDataWord a w hwf k hk (.inl hbuf)
  · rw [Block.read_eq_byteAt _ (b.wf_setDataWord a w hwf), b.read_eq_byteAt hwf]
    split
    · next hbuf => exact b.byteAt_setDataWord_other a w hwf c (.inl hbuf) hc
    · rfl
  · obtain ⟨m, hm⟩ := b.setDataWord_of_not_reg a w fun k hk => by
      rw [← Bool.not_eq_true, isRegByte_iff]
      omega
    rw [hm]

/-- A write of word q of a register: its four bytes, the register's other bytes, and the rest of the block (R75, R77). -/
theorem Block.setDataWord_regWord (i : Reg) (q : Nat) (hq : q < 8) (ho : a = 0x400 + 32 * i.val + 4 * q) :
    (∀ k, k < 4 → valByte ((b.setDataWord a w).reg i) (4 * q + k) = lane w k) ∧
    (∀ j, j < 32 → ¬(4 * q ≤ j ∧ j < 4 * q + 4) → valByte ((b.setDataWord a w).reg i) j = valByte (b.reg i) j) ∧
    (∀ j, j ≠ i → (b.setDataWord a w).reg j = b.reg j) ∧ { b.setDataWord a w with regs := b.regs } = b := by
  subst ho
  obtain ⟨v, hv⟩ := b.setDataWord_reg i q w hq
  refine ⟨fun k hk => ?_, fun j hj hout => ?_, fun j hj => ?_, by rw [hv]; rfl⟩
  · rw [← Block.byteAt_reg _ i (4 * q + k) (by omega), ← Nat.add_assoc]
    refine b.byteAt_setDataWord _ w hwf k hk (.inr ?_)
    rw [Nat.add_assoc]
    exact isRegByte_add i (4 * q + k) (by omega)
  · rw [← Block.byteAt_reg _ i j hj, ← Block.byteAt_reg _ i j hj]
    exact b.byteAt_setDataWord_other _ w hwf _ (.inr (isRegByte_add i j hj)) (by omega)
  · rw [hv, Block.reg_setReg_other _ _ _ _ hj]

end

end Sys2Proof.Machine
end

section
/-! The host's accesses to the window while the engine is idle and while a command is in flight (R73 to R82). -/

namespace Sys2Proof.Machine

/-! ## Accesses by the state of BUSY -/

theorem State.hostRead_idle (s : State) (o : Offset) (hb : s.busy = false) :
    s.hostRead o = { s with reply := .word (s.readWord o) } := by
  simp [State.hostRead, hb]

theorem State.hostRead_busy_data (s : State) (o : Offset) (hb : s.busy = true) (h : windowWord o = .data) :
    s.hostRead o = { s with
      reply := .word (Config.busyRead s.busyReads &&& dataLanes o), busyReads := s.busyReads + 1 } := by
  simp [State.hostRead, hb, h]

theorem Block.readWord_data (b : Block) (o : Offset) (h : windowWord o = .data) : b.readWord o = b.dataWord o.toNat := by
  simp [Block.readWord, h]

/-- Only a CTRL write can reset the block (R42). -/
theorem State.hostWrite_of_not_ctrl (s : State) (o : Offset) (w : Word) (h : windowWord o ≠ .ctrl) :
    s.hostWrite o w = { s with toBlock := s.toBlock.writeWord o w, reply := .nothing } := by
  simp [State.hostWrite, isSoftReset, h]

theorem Block.guardBusy_idle (b new : Block) (hb : b.busy = false) : b.guardBusy new = new := by
  simp [Block.guardBusy, hb]

theorem Block.guardBusy_busy (b new : Block) (hb : b.busy = true) : b.guardBusy new = { b with wbusy := true } :=
  if_pos hb

theorem Block.writeWord_data (b : Block) (o : Offset) (w : Word) (hb : b.busy = false) (h : windowWord o = .data) :
    b.writeWord o w = b.setDataWord o.toNat w := by
  simp [Block.writeWord, h, b.guardBusy_idle _ hb]

/-- The length registers take the low bits of the word (R37, R38, R39). -/
theorem Block.writeWord_length (b : Block) (w : Word) (hb : b.busy = false) :
    b.writeWord 0x018 w = { b with buflen := w.extractLsb' 0 8 } ∧
    b.writeWord 0x01C w = { b with msglen := w.extractLsb' 0 16 } ∧
    b.writeWord 0x020 w = { b with dstlen := w.extractLsb' 0 8 } := by
  have h8 : w.setWidth 8 = w.extractLsb' 0 8 := BitVec.setWidth_eq_extractLsb' (by decide)
  have h16 : w.setWidth 16 = w.extractLsb' 0 16 := BitVec.setWidth_eq_extractLsb' (by decide)
  rw [← h8, ← h16]
  exact ⟨b.guardBusy_idle _ hb, b.guardBusy_idle _ hb, b.guardBusy_idle _ hb⟩

/-- A write of a data word or a length register while BUSY = 1 sets WBUSY and nothing else (R80). -/
theorem Block.writeWord_dropped (b : Block) (o : Offset) (w : Word) (hb : b.busy = true)
    (h : windowWord o = .buflen ∨ windowWord o = .msglen ∨ windowWord o = .dstlen ∨ windowWord o = .data) :
    b.writeWord o w = { b with wbusy := true } := by
  obtain h | h | h | h := h <;> simp [Block.writeWord, h, b.guardBusy_busy _ hb]

/-- ID, ERRCODE and RESULT ignore writes (R40, R75). -/
theorem Block.writeWord_readOnly (b : Block) (o : Offset) (w : Word) (h : o = 0x000 ∨ o = 0x010 ∨ o = 0x014) :
    windowWord o ≠ .ctrl ∧ b.writeWord o w = b := by
  obtain rfl | rfl | rfl := h <;> exact ⟨by decide, rfl⟩

/-! ## The reserved lane of the word 0x2FC (R82) -/

theorem getLsbD_mask (j : Nat) (hj : j < 32) : (0x00FFFFFF : Word).getLsbD j = decide (j < 24) := by
  have h : ∀ j : Fin 32, (0x00FFFFFF : Word).getLsbD j.val = decide (j.val < 24) := by decide
  exact h ⟨j, hj⟩

/-- The mask of the three data lanes keeps them and clears the fourth. -/
theorem lane_and_mask (w : Word) (k : Nat) (hk : k < 4) :
    lane (w &&& 0x00FFFFFF) k = if k < 3 then lane w k else 0 := by
  ext i hi
  have hmask := getLsbD_mask (8 * k + i) (by omega)
  simp only [lane, BitVec.getElem_extractLsb', BitVec.getLsbD_and, hmask]
  split
  · next h => simp [show 8 * k + i < 24 by omega]
  · next h => simp [show ¬8 * k + i < 24 by omega]

theorem Block.setDataWord_reserved_lane (b : Block) (w : Word) : b.setDataWord 0x2FC w =
    ((b.setByteAt 0x2FC (lane w 0)).setByteAt 0x2FD (lane w 1)).setByteAt 0x2FE (lane w 2) := rfl

/-- A write of the word 0x2FC with its upper lane cleared is the same write. -/
theorem Block.writeWord_and_mask (b : Block) (w : Word) :
    b.writeWord 0x2FC (w &&& 0x00FFFFFF) = b.writeWord 0x2FC w := by
  have hlane (k : Nat) (hk : k < 3) : lane (w &&& 0x00FFFFFF) k = lane w k := by
    rw [lane_and_mask w k (by omega), if_pos hk]
  have hdata : b.setDataWord 0x2FC (w &&& 0x00FFFFFF) = b.setDataWord 0x2FC w := by
    rw [Block.setDataWord_reserved_lane, Block.setDataWord_reserved_lane, hlane 0 (by omega), hlane 1 (by omega),
      hlane 2 (by omega)]
  exact congrArg b.guardBusy hdata

/-! ## The obligations -/

/-- Settles O50: an idle read answers the word at the offset, whose lanes are the bytes of the window. -/
theorem dataReads : Obligations.DataReads := by
  unfold Obligations.DataReads
  intro s o h hb ha
  have hstep := step_read s o h ha
  rw [State.hostRead_idle s.past o hb] at hstep
  have hlane (k : Nat) (hk : k < 4) (hd : windowWord o = .data) : lane (s.readWord o) k = s.byteAt (o.toNat + k) := by
    rw [Block.readWord_data _ o hd]
    exact s.lane_dataWord o.toNat k hk
  have hbuf (k : Nat) (hk : k < 4) (hd : windowWord o = .data) (hbyte : isBufferByte (o.toNat + k) = true) :
      lane (s.readWord o) k = s.mem.read (o.toNat + k) := by
    rw [hlane k hk hd, s.byteAt_buffer _ hbyte]
  refine ⟨_, _, hstep, rfl, rfl, fun hr k hk => ?_, fun ho => ?_, fun i q k hq hk ho => ?_⟩
  · exact hbuf k hk (windowWord_data o ha (by omega)) ((isBufferByte_iff _).mpr (by omega))
  · have hn : o.toNat = 0x2FC := by rw [ho]; rfl
    have hd := windowWord_data o ha (by omega)
    refine ⟨fun k hk => ?_, ?_⟩
    · rw [← hn]
      exact hbuf k (by omega) hd ((isBufferByte_iff _).mpr (by omega))
    · have hlast := hlane 3 (by omega) hd
      rwa [hn] at hlast
  · rw [← s.byteAt_regWord i q k hq hk, ← ho]
    exact hlane k hk (windowWord_data o ha (by omega))

/-- Settles O51: the write acts through its window word; a data word changes its own bytes. -/
theorem dataWrites : Obligations.DataWrites := by
  unfold Obligations.DataWrites
  intro s o w h hb hwf ha
  obtain ⟨hbuflen, hmsglen, hdstlen⟩ := s.writeWord_length w hb
  have hother (hc : windowWord o ≠ .ctrl) := s.past.hostWrite_of_not_ctrl o w hc
  have hdata (hd : windowWord o = .data) : (s.past.hostWrite o w).toBlock = s.setDataWord o.toNat w := by
    rw [hother (by simp [hd])]
    exact s.writeWord_data o w hb hd
  refine ⟨_, step_write s o w h ha, fun hr => ?_, fun i q hq ho => ?_, ?_, ?_, ?_, fun ho => ?_⟩
  · rw [hdata (windowWord_data o ha (by omega))]
    exact s.setDataWord_bufferWord o.toNat w hwf ha hr
  · obtain ⟨hword, hbytes, hregs, hframe⟩ := s.setDataWord_regWord o.toNat w hwf i q hq ho
    rw [hdata (windowWord_data o ha (by omega))]
    refine ⟨fun k hk => ?_, hbytes, hregs, hframe⟩
    rw [valByte_of_word _ q k hq hk]
    exact hword k hk
  · rintro rfl
    rw [hother (by decide)]
    exact hbuflen
  · rintro rfl
    rw [hother (by decide)]
    exact hmsglen
  · rintro rfl
    rw [hother (by decide)]
    exact hdstlen
  · obtain ⟨hc, hw⟩ := s.writeWord_readOnly o w ho
    rw [hother hc]
    exact hw

/-- Settles O52: each of the three forms of the access answers the bus error. -/
theorem otherAccessesGetBusErrors : Obligations.OtherAccessesGetBusErrors := by
  unfold Obligations.OtherAccessesGetBusErrors
  intro s m h hm
  rw [step_host s m h]
  obtain ⟨width, o, rfl⟩ | ⟨o, rfl, ho⟩ | ⟨o, w, rfl, ho⟩ := hm
  · rfl
  · simp [State.hostMove, aligned, ho, State.busError]
  · simp [State.hostMove, aligned, ho, State.busError]

/-- Settles O53: the write acts through its window word, and only a CTRL write can end the command in flight. -/
theorem writesWhileBusy : Obligations.WritesWhileBusy := by
  unfold Obligations.WritesWhileBusy
  intro s o w h hb ha
  have hother (hc : windowWord o ≠ .ctrl) := s.past.hostWrite_of_not_ctrl o w hc
  refine ⟨_, step_write s o w h ha, fun hr => ?_, ?_, fun ho => ?_, ?_, ?_, ?_⟩
  · have hword : windowWord o = .buflen ∨ windowWord o = .msglen ∨ windowWord o = .dstlen ∨ windowWord o = .data := by
      obtain hlen | hd := hr
      · obtain h | h | h := windowWord_length o ha hlen <;> simp [h]
      · exact .inr (.inr (.inr (windowWord_data o ha (by omega))))
    rw [hother (by rintro hc; simp [hc] at hword)]
    exact s.writeWord_dropped o w hb hword
  · rintro rfl
    rw [hother (by decide)]
    exact if_pos hb
  · obtain ⟨hc, hw⟩ := s.writeWord_readOnly o w ho
    rw [hother hc]
    exact hw
  · rintro rfl hw
    rw [State.hostWrite_ctrl, if_neg (hw ▸ Bool.false_ne_true)]
    rfl
  · rintro rfl hw
    rw [State.hostWrite_ctrl, if_pos hw]
    rfl
  · rintro rfl
    rw [State.hostWrite_status]
    rfl

/-- Settles O54: the reply is the next free value, masked by the data lanes of the word. -/
theorem readsWhileBusy : Obligations.ReadsWhileBusy := by
  unfold Obligations.ReadsWhileBusy
  intro s o h hb ha hr
  have hstep := step_read s o h ha
  rw [State.hostRead_busy_data s.past o hb (windowWord_data o ha hr)] at hstep
  refine ⟨_, _, hstep, rfl, rfl, rfl, fun ho => ?_, ?_⟩
  · rw [dataLanes, if_neg ho]
    exact BitVec.and_allOnes
  · rintro rfl j hj
    have hmask : (dataLanes 0x2FC).getLsbD j = decide (j < 24) := getLsbD_mask j hj
    rw [BitVec.getLsbD_and, hmask, Bool.and_comm]
    rfl

/-- Settles O55: a reserved word reads 0 and drops writes whatever BUSY is; of the word 0x2FC only three lanes are read or
written. -/
theorem reservedOffsets : Obligations.ReservedOffsets := by
  unfold Obligations.ReservedOffsets
  intro s o ha
  refine ⟨fun hr => ?_, ?_⟩
  · have hword := windowWord_reserved o ha hr
    refine ⟨fun h => ?_, fun w h => ?_⟩
    · rw [step_read s o h ha, State.hostRead_of_not_data _ _ (by simp [hword])]
      simp [Block.readWord, hword]
    · rw [step_write s o w h ha, State.hostWrite_of_not_ctrl _ _ _ (by simp [hword])]
      simp [Block.writeWord, hword]
  · rintro rfl
    have hword : windowWord 0x2FC = .data := by decide
    have hctrl : windowWord 0x2FC ≠ .ctrl := by decide
    refine ⟨fun h => ?_, fun w h => ⟨_, step_write s _ w h ha, ?_⟩⟩
    · have hstep := step_read s 0x2FC h ha
      cases hb : s.busy with
      | false =>
        rw [State.hostRead_idle s.past _ hb] at hstep
        exact ⟨_, _, hstep, rfl, s.lane_dataWord 0x2FC 3 (by decide)⟩
      | true =>
        rw [State.hostRead_busy_data s.past _ hb hword] at hstep
        exact ⟨_, _, hstep, rfl, lane_and_mask _ 3 (by decide)⟩
    · rw [step_write _ 0x2FC (w &&& 0x00FFFFFF) ⟨_, rfl⟩ ha, State.hostWrite_of_not_ctrl _ _ _ hctrl,
        State.hostWrite_of_not_ctrl _ _ _ hctrl, Block.writeWord_and_mask]
      rfl

end Sys2Proof.Machine
end

section
/-! The encoding of commands (R100 to R109): what the decoder answers, class by class, and how rows, words and commands
determine each other. -/

namespace Sys2Proof

/-! ## The rows of R105 -/

/-- An opcode and a mode name one row. -/
theorem row_eq_of_key {r q : Row} (hr : r ∈ rows) (hq : q ∈ rows) (ho : r.opc = q.opc) (hm : r.mode = q.mode) :
    r = q := by
  by_contra hne
  have hsymm : Std.Symm fun r q : Row => ¬(r.opc = q.opc ∧ r.mode = q.mode) :=
    ⟨fun _ _ h e => h ⟨e.1.symm, e.2.symm⟩⟩
  exact rows_keys_distinct.forall hr hq hne ⟨ho, hm⟩

/-- The value of a field in the command that a row builds: an unused field is 0. -/
def FieldKind.keep (k : FieldKind) (v : Reg) : Reg := if k = .unused then 0 else v

theorem FieldKind.keep_of_zeroOk {k : FieldKind} {v : Reg} (h : k.zeroOk v = true) : k.keep v = v := by
  cases k with
  | unused =>
    have hv : v.val = 0 := by simpa [zeroOk] using h
    exact (Fin.ext hv).symm
  | _ => rfl

/-- The word of a command that a row builds lies in that row (R105, R109). -/
theorem encode_build {r : Row} (hr : r ∈ rows) (f : Fields) :
    encode (r.build f) =
      pack r.opc r.mode (r.rd.keep f.rd) (r.rs1.keep f.rs1) (r.rs2.keep f.rs2) (r.rs3.keep f.rs3) := by
  revert r -- one equation per row of the table
  simp [rows, engineRows, modularRows, pointRows, scalarRows, encodingRows, ecdsaRows, schnorrRows, hashRows, encode,
    FieldKind.keep]

/-! ## Mask and match (R105) -/

theorem pack_inj {opc opc' : BitVec 8} {mode mode' : BitVec 4} {rd rs1 rs2 rs3 rd' rs1' rs2' rs3' : Reg} :
    pack opc mode rd rs1 rs2 rs3 = pack opc' mode' rd' rs1' rs2' rs3' ↔
      opc = opc' ∧ mode = mode' ∧ rd = rd' ∧ rs1 = rs1' ∧ rs2 = rs2' ∧ rs3 = rs3' := by
  refine ⟨fun h => ?_, ?_⟩
  · have hf := congrArg fieldsOf h
    simp only [fieldsOf_pack, Fields.mk.injEq] at hf
    exact ⟨by simpa using congrArg opcOf h, by simpa using congrArg modeOf h, hf⟩
  · rintro ⟨rfl, rfl, rfl, rfl, rfl, rfl⟩
    rfl

theorem Row.pattern_eq_pack (r : Row) : r.pattern = pack r.opc r.mode 0 0 0 0 := by
  have hzero : ∀ m : BitVec 4, m ++ (0 : BitVec 20) =
      m ++ (0 : BitVec 5) ++ (0 : BitVec 5) ++ (0 : BitVec 5) ++ (0 : BitVec 5) := by decide
  exact congrArg (· ++ r.opc) (hzero r.mode)

/-- What is left of a field under the mask of its kind: an unused field is kept, a used one is cleared. -/
def FieldKind.masked (k : FieldKind) (v : Reg) : Reg := (BitVec.ofFin (w := 5) v &&& k.maskBits).toFin

theorem FieldKind.masked_eq_zero_iff (k : FieldKind) (v : Reg) : k.masked v = 0 ↔ k.zeroOk v = true := by
  revert v
  cases k <;> decide

/-- The bitwise and of two words is taken field by field. -/
theorem and_cmd32 (m m' : BitVec 4) (c c' b b' a a' d d' : BitVec 5) (o o' : BitVec 8) :
    (m ++ c ++ b ++ a ++ d ++ o) &&& (m' ++ c' ++ b' ++ a' ++ d' ++ o') =
      (m &&& m') ++ (c &&& c') ++ (b &&& b') ++ (a &&& a') ++ (d &&& d') ++ (o &&& o') := by
  simp only [BitVec.and_append]

theorem Row.and_mask (r : Row) (w : Word) : w &&& r.mask =
    pack (opcOf w) (modeOf w) (r.rd.masked (rdOf w)) (r.rs1.masked (rs1Of w)) (r.rs2.masked (rs2Of w))
      (r.rs3.masked (rs3Of w)) := by
  have hmode : modeOf w &&& 0xF = modeOf w := BitVec.and_allOnes
  have hopc : opcOf w &&& 0xFF = opcOf w := BitVec.and_allOnes
  conv_lhs => rw [← pack_fields w]
  refine (and_cmd32 ..).trans ?_
  rw [hmode, hopc]
  rfl

/-- A word matches a row by mask and match when it has the row's opcode and mode, and 0 in every field that the row
does not use. -/
theorem Row.matches_iff (r : Row) (w : Word) : w &&& r.mask = r.pattern ↔
    r.opc = opcOf w ∧ r.mode = modeOf w ∧ r.unusedZero (fieldsOf w) = true := by
  rw [r.and_mask, r.pattern_eq_pack, pack_inj]
  simp only [FieldKind.masked_eq_zero_iff, Row.unusedZero, fieldsOf, Bool.and_eq_true, and_assoc]
  rw [eq_comm (a := opcOf w), eq_comm (a := modeOf w)]

/-- At most one row matches a word: two that do share their opcode and mode (R106). -/
theorem length_matching_rows_le (w : Word) : (rows.filter fun r => w &&& r.mask == r.pattern).length ≤ 1 := by
  have hdistinct := rows_keys_distinct.filter fun r => w &&& r.mask == r.pattern
  have hkey : ∀ r ∈ rows.filter (fun r => w &&& r.mask == r.pattern), r.opc = opcOf w ∧ r.mode = modeOf w := by
    intro r hr
    obtain ⟨ho, hm, -⟩ := (r.matches_iff w).mp (by simpa using (List.mem_filter.mp hr).2)
    exact ⟨ho, hm⟩
  generalize rows.filter (fun r => w &&& r.mask == r.pattern) = l at hdistinct hkey ⊢
  match l with
  | [] => exact Nat.zero_le 1
  | [_] => exact le_rfl
  | r :: q :: _ =>
    obtain ⟨hro, hrm⟩ := hkey r (by simp)
    obtain ⟨hqo, hqm⟩ := hkey q (by simp)
    exact absurd ⟨hro.trans hqo.symm, hrm.trans hqm.symm⟩ (List.rel_of_pairwise_cons hdistinct (by simp))

/-! ## The answers of the decoder (R106, R107) -/

section
variable {w : Word}

/-- R107 (a). -/
theorem decode_of_no_opcode (h : ∀ r ∈ rows, r.opc ≠ opcOf w) : decode w = .error .opcode := by
  have hall : rows.all (fun r => r.opc != opcOf w) = true := by simpa using h
  rw [decode, if_pos hall]

/-- A word with the opcode of a row passes the decoder's first test. -/
theorem not_all_opcodes_differ (h : ∃ r ∈ rows, r.opc = opcOf w) : ¬rows.all (fun r => r.opc != opcOf w) = true := by
  simpa using h

/-- R107 (b). -/
theorem decode_of_no_mode (ho : ∃ r ∈ rows, r.opc = opcOf w)
    (h : ∀ r ∈ rows, ¬(r.opc = opcOf w ∧ r.mode = modeOf w)) : decode w = .error .mode := by
  have hfind : rows.find? (fun r => r.opc == opcOf w && r.mode == modeOf w) = none := by simpa using h
  rw [decode, if_neg (not_all_opcodes_differ ho), hfind]

section
variable {r : Row} (hr : r ∈ rows) (ho : r.opc = opcOf w) (hm : r.mode = modeOf w)
include hr ho hm

/-- A word with the opcode and the mode of a row is judged by the fields of that row. -/
theorem decode_of_row : decode w =
    if !r.unusedZero (fieldsOf w) then .error .unusedField
    else if !r.inRange (fieldsOf w) then .error .range
    else .ok (r.build (fieldsOf w)) := by
  have hfind : rows.find? (fun r => r.opc == opcOf w && r.mode == modeOf w) = some r := by
    cases hq : rows.find? (fun r => r.opc == opcOf w && r.mode == modeOf w) with
    | none => exact absurd (List.find?_eq_none.mp hq r hr) (by simp [ho, hm])
    | some q =>
      obtain ⟨hqo, hqm⟩ : q.opc = opcOf w ∧ q.mode = modeOf w := by simpa using List.find?_some hq
      rw [row_eq_of_key (List.mem_of_find?_eq_some hq) hr (hqo.trans ho.symm) (hqm.trans hm.symm)]
  rw [decode, if_neg (not_all_opcodes_differ ⟨r, hr, ho⟩), hfind]

/-- R107 (c). -/
theorem decode_of_unused (h : r.unusedZero (fieldsOf w) = false) : decode w = .error .unusedField := by
  rw [decode_of_row hr ho hm, h]
  rfl

/-- R107 (d). -/
theorem decode_of_range (hz : r.unusedZero (fieldsOf w) = true) (h : r.inRange (fieldsOf w) = false) :
    decode w = .error .range := by
  rw [decode_of_row hr ho hm, hz, h]
  rfl

theorem decode_of_legal (hz : r.unusedZero (fieldsOf w) = true) (h : r.inRange (fieldsOf w) = true) :
    decode w = .ok (r.build (fieldsOf w)) := by
  rw [decode_of_row hr ho hm, hz, h]
  rfl

end

/-- A word decodes to a command exactly when it meets every demand of one row (R106). -/
theorem decode_eq_ok_iff {i : Instr} : decode w = .ok i ↔
    ∃ r ∈ rows, (r.opc = opcOf w ∧ r.mode = modeOf w ∧ r.unusedZero (fieldsOf w) = true) ∧
      r.inRange (fieldsOf w) = true ∧ r.build (fieldsOf w) = i := by
  constructor
  · intro h
    by_cases hrow : ∃ r ∈ rows, r.opc = opcOf w ∧ r.mode = modeOf w
    · obtain ⟨r, hr, ho, hm⟩ := hrow
      cases hz : r.unusedZero (fieldsOf w) with
      | false => cases (decode_of_unused hr ho hm hz).symm.trans h
      | true =>
        cases hrange : r.inRange (fieldsOf w) with
        | false => cases (decode_of_range hr ho hm hz hrange).symm.trans h
        | true =>
          have hb := (decode_of_legal hr ho hm hz hrange).symm.trans h
          exact ⟨r, hr, ⟨ho, hm, hz⟩, hrange, Except.ok.inj hb⟩
    · by_cases hopc : ∃ r ∈ rows, r.opc = opcOf w
      · cases (decode_of_no_mode hopc fun r hr hk => hrow ⟨r, hr, hk⟩).symm.trans h
      · cases (decode_of_no_opcode fun r hr ho => hopc ⟨r, hr, ho⟩).symm.trans h
  · rintro ⟨r, hr, ⟨ho, hm, hz⟩, hrange, rfl⟩
    exact decode_of_legal hr ho hm hz hrange

end

/-! ## Commands and their words (R109) -/

open Laws.EncodeFields in
/-- Every command has a row of R105 that reads it back from its own word. -/
theorem encodeFields_statement (i : Instr) : Laws.EncodeFields.Statement i := by
  cases i
  exacts [nop, ldc _ _, modmul _ _ _ _, modmulS _ _ _ _, modinv _ _ _, modinvS _ _ _, modexp _ _ _ _, modexpS _ _ _ _,
    padd _ _ _, pdbl _ _, pneg _ _, psub _ _ _, paff _ _, pmul _ _ _, pmulS _ _ _, pmulg _ _, pmulgS _ _,
    pencC _, pencU _, pencX _, pdec _, pdecX _, pvalid _, peq _ _,
    keygen _, ecdsaSign _ _ _, ecdsaSignR _ _, ecdsaVerify _ _, ecdsaRecover _ _, schnorrSign _ _, schnorrVerify _,
    tapTweak _ _ _, tapTweakN _ _, tapSign _ _ _, tapSignN _ _, tapVerify _ _, tapVerifyN _, h2c _]

/-- The word of a command that keeps the limits of R101 decodes to it. -/
theorem decode_encode {i : Instr} (h : i.wf = true) : decode (encode i) = .ok i := by
  obtain ⟨r, hr, ho, hm, hz, hrange, hb⟩ := encodeFields_statement i
  rw [decode_of_legal hr ho hm hz (hrange.trans h), hb]

/-- The word of a command that breaks a limit of R101 is illegal by R107 (d). -/
theorem decode_encode_of_not_wf {i : Instr} (h : i.wf = false) : decode (encode i) = .error .range := by
  obtain ⟨r, hr, ho, hm, hz, hrange, -⟩ := encodeFields_statement i
  exact decode_of_range hr ho hm hz (hrange.trans h)

/-- A word that decodes is the one word of its command. -/
theorem encode_of_decode {w : Word} {i : Instr} (h : decode w = .ok i) : encode i = w := by
  obtain ⟨r, hr, ⟨ho, hm, hz⟩, -, rfl⟩ := decode_eq_ok_iff.mp h
  simp only [Row.unusedZero, Bool.and_eq_true, and_assoc] at hz
  obtain ⟨hrd, hrs1, hrs2, hrs3⟩ := hz
  rw [encode_build hr, ho, hm, FieldKind.keep_of_zeroOk hrd, FieldKind.keep_of_zeroOk hrs1,
    FieldKind.keep_of_zeroOk hrs2, FieldKind.keep_of_zeroOk hrs3]
  exact pack_fields w

/-- A command that a word decodes to keeps the limits of R101: the word of any other one is illegal. -/
theorem wf_of_decode {w : Word} {i : Instr} (h : decode w = .ok i) : i.wf = true := by
  cases hwf : i.wf with
  | true => rfl
  | false =>
    have hbad := decode_encode_of_not_wf hwf
    rw [encode_of_decode h, h] at hbad
    cases hbad

/-- Settles O2: the word of a command lies in the command's own row, and a row packs the fields it was built from. -/
theorem decodeAndEncodeAgree : Obligations.DecodeAndEncodeAgree := by
  unfold Obligations.DecodeAndEncodeAgree
  exact ⟨fun _ => ⟨decode_encode, decode_encode_of_not_wf⟩, fun _ _ h => ⟨encode_of_decode h, wf_of_decode h⟩⟩

/-- Settles O3: to match a row is to have its opcode, its mode and 0 in its unused fields. -/
theorem decodeSelectsUniqueRow : Obligations.DecodeSelectsUniqueRow := by
  unfold Obligations.DecodeSelectsUniqueRow
  intro w
  refine ⟨length_matching_rows_le w, fun i => ?_⟩
  simp only [Row.matches_iff, decode_eq_ok_iff]

/-- Settles O1, by evaluating the decoder and the encoder on the words of R109. -/
theorem exampleWordsDecode : Obligations.ExampleWordsDecode := by
  unfold Obligations.ExampleWordsDecode
  decide

end Sys2Proof
end

section
/-! Illegal words (R107) and their completion (R128). -/

namespace Sys2Proof.Machine

/-- The opcode map of R104 lists the opcodes and modes of the rows of R105. -/
theorem assigned_eq_rows : assigned = rows.map fun r => (r.opc, r.mode) := by decide

theorem mem_assigned_opcodes (o : BitVec 8) : o ∈ assigned.map Prod.fst ↔ ∃ r ∈ rows, r.opc = o := by
  simp [assigned_eq_rows]

theorem mem_assigned (o : BitVec 8) (m : BitVec 4) : (o, m) ∈ assigned ↔ ∃ r ∈ rows, r.opc = o ∧ r.mode = m := by
  simp [assigned_eq_rows]

/-- A completion with an error writes no data and leaves the host's side alone (R124, R288). -/
theorem failsWith_complete_error (s : State) (c : ErrCode) : FailsWith c s (s.complete (.error c)) where
  busy := rfl
  done := rfl
  err := rfl
  errcode := rfl
  data := ⟨rfl, fun _ => rfl, rfl, rfl, rfl, rfl⟩
  host := ⟨fun _ _ => rfl, rfl, rfl, rfl, rfl, rfl, rfl⟩
  agents := ⟨rfl, rfl, rfl⟩
  draws := ⟨rfl, rfl⟩

/-- When it is the engine's turn, the step is that turn. -/
theorem step_engine (s : State) (h : EngineNext s) : step s = engineTurn s.past := by
  obtain h | ⟨rest, h⟩ := h
  · have hpast : s.past = s := by cases s; simp_all [State.past]
    rw [hpast, step, h]
  · simp [step, h, State.past]

theorem engineTurn_of_illegal (s : State) {c : Illegal} (hb : s.busy = true) (h : decode s.cmdlast = .error c) :
    engineTurn s = .next (s.complete (.error .illegal)) := by
  rw [engineTurn, if_pos hb, runCommand, h]
  rfl

/-- Settles O4: the decoder's answers class by class, and the completion of a word in flight that it rejects. -/
theorem illegalWordsComplete : Obligations.IllegalWordsComplete := by
  unfold Obligations.IllegalWordsComplete
  refine ⟨fun w => ⟨fun ho => ?_, fun ho hm => ?_, fun r hr ho hm => ⟨?_, ?_⟩⟩, fun s c hn hb h => ?_⟩
  · exact decode_of_no_opcode fun r hr e => ho ((mem_assigned_opcodes _).mpr ⟨r, hr, e⟩)
  · exact decode_of_no_mode ((mem_assigned_opcodes _).mp ho) fun r hr e => hm ((mem_assigned _ _).mpr ⟨r, hr, e⟩)
  · exact decode_of_unused hr ho hm
  · exact decode_of_range hr ho hm
  · exact ⟨_, (step_engine s hn).trans (engineTurn_of_illegal s.past hb h), failsWith_complete_error s.past .illegal⟩

end Sys2Proof.Machine
end

section
/-! The engine's turn (R121, R123), acceptance of a command (R122), NOP (R126) and LDC (R127). -/

namespace Sys2Proof.Machine

/-! ## The engine's turn -/

theorem engineTurn_of_legal (s : State) {i : Instr} (hb : s.busy = true) (h : decode s.cmdlast = .ok i) :
    engineTurn s = exec i s := by
  rw [engineTurn, if_pos hb, runCommand, h]

theorem engineTurn_idle (s : State) (hb : s.busy = false) : engineTurn s = .next s := by
  simp [engineTurn, hb]

/-- A placed word is in flight and it is the engine's turn; past that turn the events ahead are those of before. -/
theorem State.past_withFetchWord (s : State) (w : Word) :
    (s.withFetchWord 32 w.toNat).past = { s with toBlock := s.accept w } := by
  have hword : BitVec.ofNat 32 (w.toNat % 2 ^ 32) = w := by
    rw [Nat.mod_eq_of_lt w.isLt, BitVec.ofNat_toNat, BitVec.setWidth_eq]
  rw [State.withFetchWord, hword]
  rfl

theorem engineNext_withFetchWord (s : State) (nbits w : Nat) : EngineNext (s.withFetchWord nbits w) :=
  .inr ⟨s.script, rfl⟩

/-- Settles O5: a turn of the engine is `engineTurn` past the event, by BUSY and by what CMDLAST decodes to. -/
theorem stepRunsDecodedCommand : Obligations.StepRunsDecodedCommand := by
  unfold Obligations.StepRunsDecodedCommand
  refine ⟨fun s i hn hb h => ?_, fun s hn hb => ?_, fun s w i h => ?_⟩
  · exact (step_engine s hn).trans (engineTurn_of_legal s.past hb h)
  · exact (step_engine s hn).trans (engineTurn_idle s.past hb)
  · rw [step_engine _ (engineNext_withFetchWord s 32 w.toNat), s.past_withFetchWord w]
    exact engineTurn_of_legal _ rfl h

/-! ## Acceptance -/

/-- A CMD write is accepted while BUSY = 0; while BUSY = 1 it is dropped and sets OVR (R44, R122). -/
theorem Block.writeWord_cmd (b : Block) (w : Word) :
    b.writeWord 0x00C w = if b.busy then { b with ovr := true } else b.accept w := by
  have hword : windowWord 0x00C = .cmd := by decide
  simp only [Block.writeWord, hword]

/-- Settles O6: the two cases of BUSY for the write of the word CMD, which is no soft reset. -/
theorem cmdWriteAccepts : Obligations.CmdWriteAccepts := by
  unfold Obligations.CmdWriteAccepts
  intro s w h
  have hstep := step_write s 0x00C w h (by decide)
  rw [State.hostWrite_of_not_ctrl _ _ _ (by decide), Block.writeWord_cmd] at hstep
  refine ⟨_, hstep, fun hb => ?_, fun hb => ?_⟩
  · exact if_neg (hb ▸ Bool.false_ne_true)
  · exact if_pos hb

/-! ## Encodings and completions of commands that draw nothing -/

/-- A command whose word is the word of R109 has the encoding of its row. -/
theorem encodedAs_of_encode {i : Instr} {opc mode : Nat} {rd rs1 rs2 rs3 : Reg}
    (h : encode i = cmdWord opc mode rd rs1 rs2 rs3) : EncodedAs i opc mode rd rs1 rs2 rs3 where
  word := h
  legal hwf := h ▸ decode_encode hwf
  illegal hwf := h ▸ decode_encode_of_not_wf hwf

/-- A completion with code 0 that puts nothing in BUF leaves the host's side alone (R124). -/
theorem completes_complete_ok (s : State) (e : Effects) (hbuf : e.buf = none) : Completes s (s.complete (.ok e)) where
  busy := rfl
  done := rfl
  err := rfl
  errcode := rfl
  host := by
    obtain ⟨hmsg, hdst, hie, hovr, hwbusy, hcmd⟩ := s.complete_keeps (.ok e)
    exact ⟨fun a _ => by simp [Block.complete_ok, hbuf], hmsg, hdst, hie, hovr, hwbusy, hcmd⟩
  agents := ⟨rfl, rfl, rfl⟩

theorem writesNothing_complete_ok (s : State) : WritesNothing s (s.complete (.ok {})) where
  completes := completes_complete_ok s _ rfl
  draws := ⟨rfl, rfl⟩
  data := ⟨rfl, fun _ => rfl, rfl, rfl, rfl, rfl⟩

theorem writesReg_complete_okReg (s : State) (rd : Reg) (v : Nat) :
    WritesReg s (s.complete (okReg rd v)) rd v where
  puts :=
    { completes := completes_complete_ok s _ rfl
      draws := ⟨rfl, rfl⟩
      dest := s.reg_setRegs_one rd _
      regs := fun j hj => s.reg_setRegs_other (wrReg rd v) j (by simpa [wrReg] using hj)
      mem := fun _ => rfl
      buflen := rfl }
  res := rfl

/-! ## NOP and LDC -/

/-- NOP is the one command with opcode 0x00 (R104). -/
theorem eq_nop_of_opcOf_encode {i : Instr} (h : opcOf (encode i) = 0) : i = .nop := by
  cases i with
  | nop => rfl
  | _ => simp [encode] at h

/-- A word with opcode 0x00 and any other bit set is illegal (R126): the one word that decodes to NOP is 0. -/
theorem decode_error_of_opcode_zero {w : Word} (ho : opcOf w = 0) (hw : w ≠ 0) : ∃ c, decode w = .error c := by
  cases h : decode w with
  | error c => exact ⟨c, rfl⟩
  | ok i =>
    have hword : encode i = w := encode_of_decode h
    have hnop : i = .nop := eq_nop_of_opcOf_encode (hword ▸ ho)
    have hzero : encode .nop = 0 := by decide
    exact absurd (hword.symm.trans (hnop ▸ hzero)) hw

/-- The constants of R127 in the order of their indices, with the values of R48. -/
theorem curveConst_eq_getD (k : Reg) (hk : k.val ≤ 6) :
    curveConst k = [0, 1, p, n, Gx, Gy, curveB].getD k.val 0 := by
  unfold curveConst
  generalize k.val = j at hk
  interval_cases j <;> rfl

/-- Settles O11: NOP's outcome is the empty one, NOP's word is alone under its opcode, and LDC's outcome writes the constant of
its index. -/
theorem nopAndConstants : Obligations.NopAndConstants := by
  unfold Obligations.NopAndConstants
  refine ⟨fun s => ⟨by decide, ?_⟩, fun w => decode_error_of_opcode_zero, fun rd k s => ⟨?_, fun hk => ?_⟩⟩
  · exact ⟨_, rfl, writesNothing_complete_ok s⟩
  · exact encodedAs_of_encode (pack_eq_cmdWord 0x01 0 rd k 0 0)
  · exact ⟨_, rfl, curveConst_eq_getD k hk ▸ writesReg_complete_okReg s rd (curveConst k)⟩

end Sys2Proof.Machine
end

section
/-! Modular arithmetic: MODMUL, MODINV, MODEXP (R141 to R146) and the outcomes of the constant-time forms (R149, R186). -/

namespace Sys2Proof.Machine

/-! ## The values (R143, R145) -/

/-- The loop of R145 over all 256 bits of the exponent computes the power, and 0^0 = 1. -/
theorem modPow_eq (b e m : Nat) (he : e < 2 ^ 256) : modPow b e m = b ^ e % m := by
  calc modPow b e m = (1 % m) ^ 2 ^ 256 * b ^ (e % 2 ^ 256) % m := modPowLoop_eq _ _ _ _ _ (Nat.mod_mod ..)
    _ = (1 % m) ^ 2 ^ 256 * b ^ e % m := by rw [Nat.mod_eq_of_lt he]
    _ = 1 ^ 2 ^ 256 * b ^ e % m := ((Nat.mod_modEq 1 m).pow _).mul_right _
    _ = b ^ e % m := by rw [one_pow, one_mul]

/-- A value coprime to m has at most one inverse in [0, m) (R143). -/
theorem inverse_unique {a m u v : Nat} (hc : Nat.Coprime a m) (hu : u < m) (hv : v < m) (hau : a * u % m = 1 % m)
    (hav : a * v % m = 1 % m) : u = v := by
  have hmul : a * u ≡ a * v [MOD m] := hau.trans hav.symm
  exact (hmul.cancel_left_of_coprime hc.symm).eq_of_lt_of_lt hu hv

/-! ## Completions of a command whose outcome is known -/

section
variable {i : Instr} {s : State}

theorem failsWith_of_exec_error {c : ErrCode} (h : exec i s = s.finish (.error c)) :
    ∃ t, exec i s = .next t ∧ FailsWith c s t :=
  ⟨_, h, failsWith_complete_error s c⟩

theorem writesReg_of_exec_okReg {rd : Reg} {v : Nat} (h : exec i s = s.finish (okReg rd v)) :
    ∃ t, exec i s = .next t ∧ WritesReg s t rd v :=
  ⟨_, h, writesReg_complete_okReg s rd v⟩

/-! ## The meaning that a plain form and its .S form share -/

variable {rd rs1 rs2 rs3 : Reg}

theorem exec_modmul_forms (h : i = .modmul rd rs1 rs2 rs3 ∨ i = .modmulS rd rs1 rs2 rs3) :
    exec i s = s.finish (modmulOutcome rd (s.val rs1) (s.val rs2) (s.val rs3)) := by
  obtain rfl | rfl := h
  · rfl
  · rfl

theorem exec_modinv_forms (h : i = .modinv rd rs1 rs3 ∨ i = .modinvS rd rs1 rs3) :
    exec i s = s.finish (modinvOutcome rd (s.val rs1) (s.val rs3)) := by
  obtain rfl | rfl := h
  · rfl
  · rfl

theorem exec_modexp_forms (h : i = .modexp rd rs1 rs2 rs3 ∨ i = .modexpS rd rs1 rs2 rs3) :
    exec i s = s.finish (modexpOutcome rd (s.val rs1) (s.val rs2) (s.val rs3)) := by
  obtain rfl | rfl := h
  · rfl
  · rfl

theorem exec_pmul_forms (h : i = .pmul rd rs1 rs2 ∨ i = .pmulS rd rs1 rs2) :
    exec i s = s.finish (pmulOutcome rd (s.triple rs1) (s.val rs2)) := by
  obtain rfl | rfl := h
  · rfl
  · rfl

theorem exec_pmulg_forms (h : i = .pmulg rd rs1 ∨ i = .pmulgS rd rs1) :
    exec i s = s.finish (pmulOutcome rd G (s.val rs1)) := by
  obtain rfl | rfl := h
  · rfl
  · rfl

end

/-! ## The obligations -/

/-- Settles O13: `modInv` is the inverse of a value coprime to the modulus, and cancelling that value makes it unique. -/
theorem modinvInverts : Obligations.ModinvInverts := by
  unfold Obligations.ModinvInverts
  rintro rd rs1 rs3 s a m rfl rfl
  refine ⟨encodedAs_of_encode (pack_eq_cmdWord 0x12 0 rd rs1 0 rs3),
    encodedAs_of_encode (pack_eq_cmdWord 0x13 0 rd rs1 0 rs3), fun i hi => ?_⟩
  have hexec : exec i s = s.finish (modinvOutcome rd (s.reg rs1).toNat (s.reg rs3).toNat) := exec_modinv_forms hi
  refine ⟨fun hm => ?_, fun hm hg => ?_, fun hm hg => ?_⟩
  · rw [modinvOutcome, if_pos hm] at hexec
    exact failsWith_of_exec_error hexec
  · rw [modinvOutcome, if_neg hm, if_pos hg] at hexec
    exact failsWith_of_exec_error hexec
  · rw [modinvOutcome, if_neg hm, if_neg (not_not.mpr hg)] at hexec
    obtain ⟨t, ht, hw⟩ := writesReg_of_exec_okReg hexec
    have hc : Nat.Coprime (s.reg rs1).toNat (s.reg rs3).toNat :=
      Nat.Coprime.symm ((Nat.gcd_rec ..).trans hg)
    obtain ⟨hlt, hinv⟩ := modInv_spec _ _ (Nat.pos_of_ne_zero hm) (s.reg rs3).isLt.le hc
    exact ⟨_, t, ht, hw, hlt, hinv, fun u hu hau => inverse_unique hc hu hlt hau hinv⟩

/-- Settles O14: `modPow` is the mathematical power for an exponent of 256 bits. -/
theorem modexpPowers : Obligations.ModexpPowers := by
  unfold Obligations.ModexpPowers
  intro rd rs1 rs2 rs3 s
  refine ⟨encodedAs_of_encode (pack_eq_cmdWord 0x14 0 rd rs1 rs2 rs3),
    encodedAs_of_encode (pack_eq_cmdWord 0x15 0 rd rs1 rs2 rs3), fun i hi => ?_⟩
  have hexec : exec i s = s.finish (modexpOutcome rd (s.reg rs1).toNat (s.reg rs2).toNat (s.reg rs3).toNat) :=
    exec_modexp_forms hi
  refine ⟨fun hm => ?_, fun hm => ?_⟩
  · rw [modexpOutcome, if_pos hm] at hexec
    exact failsWith_of_exec_error hexec
  · rw [modexpOutcome, if_neg hm, modPow_eq _ _ _ (s.reg rs2).isLt] at hexec
    exact writesReg_of_exec_okReg hexec

/-- Settles O12: the two cases of the modulus, for operands of any size and any overlap of registers. -/
theorem modmulMultiplies : Obligations.ModmulMultiplies := by
  unfold Obligations.ModmulMultiplies
  intro rd rs1 rs2 rs3 s
  refine ⟨encodedAs_of_encode (pack_eq_cmdWord 0x10 0 rd rs1 rs2 rs3),
    encodedAs_of_encode (pack_eq_cmdWord 0x11 0 rd rs1 rs2 rs3), fun i hi => ?_⟩
  have hexec : exec i s = s.finish (modmulOutcome rd (s.reg rs1).toNat (s.reg rs2).toNat (s.reg rs3).toNat) :=
    exec_modmul_forms hi
  refine ⟨fun hm => ?_, fun hm => ?_⟩
  · rw [modmulOutcome, if_pos hm] at hexec
    exact failsWith_of_exec_error hexec
  · rw [modmulOutcome, if_neg hm] at hexec
    exact writesReg_of_exec_okReg hexec

/-- Settles O15: each pair of forms has one meaning. -/
theorem secureFormsAgree : Obligations.SecureFormsAgree := by
  unfold Obligations.SecureFormsAgree
  intro rd rs1 rs2 rs3 s
  exact ⟨(exec_modmul_forms (.inr rfl)).trans (exec_modmul_forms (.inl rfl)).symm,
    (exec_modinv_forms (.inr rfl)).trans (exec_modinv_forms (.inl rfl)).symm,
    (exec_modexp_forms (.inr rfl)).trans (exec_modexp_forms (.inl rfl)).symm,
    (exec_pmul_forms (.inr rfl)).trans (exec_pmul_forms (.inl rfl)).symm,
    (exec_pmulg_forms (.inr rfl)).trans (exec_pmulg_forms (.inl rfl)).symm⟩

end Sys2Proof.Machine
end

section
/-! Triples in the operand registers (R33): what a point command reads, what its completion writes, and that a triple
written reads back. -/

namespace Sys2Proof.Machine

/-! ## Coordinates and registers -/

/-- A coordinate is below p < 2^256, so its register holds it exactly. -/
theorem Fp.toNat_toVal (a : Fp) : a.toVal.toNat = a.val := by
  have hp : p < 2 ^ 256 := by decide
  rw [Fp.toVal, BitVec.toNat_ofNat, Nat.mod_eq_of_lt (a.isLt.trans hp)]

theorem toFp_toNat_toVal (a : Fp) : toFp a.toVal.toNat = a := by
  rw [Fp.toNat_toVal]
  exact Fin.ext (Nat.mod_eq_of_lt a.isLt)

/-- The coordinates that a command reads are the registers' values mod p (R33). -/
theorem Block.triple_eq_of_val {b : Block} {v : Reg} {A : Triple} (hX : A.X.val = (b.reg v).toNat % p)
    (hY : A.Y.val = (b.reg (v + 1)).toNat % p) (hZ : A.Z.val = (b.reg (v + 2)).toNat % p) : b.triple v = A := by
  obtain ⟨X, Y, Z⟩ := A
  rw [Block.triple, Triple.mk.injEq]
  exact ⟨Fin.ext hX.symm, Fin.ext hY.symm, Fin.ext hZ.symm⟩

theorem WritesTriple.regs_eq {s t : State} {rd : Reg} {T : Triple} (h : WritesTriple s t rd T) :
    t.reg rd = T.X.toVal ∧ t.reg (rd + 1) = T.Y.toVal ∧ t.reg (rd + 2) = T.Z.toVal :=
  ⟨h.puts.destX, h.puts.destY, h.puts.destZ⟩

/-- A triple that was written reads back as itself. -/
theorem WritesTriple.triple_eq {s t : State} {rd : Reg} {T : Triple} (h : WritesTriple s t rd T) : t.triple rd = T := by
  obtain ⟨hX, hY, hZ⟩ := h.regs_eq
  simp only [Block.triple, Block.val, hX, hY, hZ, toFp_toNat_toVal]

/-! ## Completions that write a triple -/

theorem writesTriple_complete_okTriple (s : State) (rd : Reg) (T : Triple) :
    WritesTriple s (s.complete (okTriple rd T)) rd T := by
  obtain ⟨hX, hY, hZ⟩ := s.reg_setRegs_triple rd T.X.toVal T.Y.toVal T.Z.toVal
  refine ⟨⟨completes_complete_ok s _ rfl, ⟨rfl, rfl⟩, hX, hY, hZ, fun j h0 h1 h2 => ?_, fun _ => rfl, rfl⟩, rfl⟩
  exact s.reg_setRegs_other (wrTriple rd T) j (by simpa [wrTriple] using ⟨h0, h1, h2⟩)

theorem writesTriple_of_exec_okTriple {i : Instr} {s : State} {rd : Reg} {T : Triple}
    (h : exec i s = s.finish (okTriple rd T)) : ∃ t, exec i s = .next t ∧ WritesTriple s t rd T :=
  ⟨_, h, writesTriple_complete_okTriple s rd T⟩

/-! ## The meanings of the point commands (R161 to R167) -/

section
variable (rd rs1 rs2 : Reg) (s : State)

theorem exec_padd : exec (.padd rd rs1 rs2) s = s.finish (okTriple rd (paddF (s.triple rs1) (s.triple rs2))) := rfl

theorem exec_pdbl : exec (.pdbl rd rs1) s = s.finish (okTriple rd (pdblF (s.triple rs1))) := rfl

theorem exec_pneg : exec (.pneg rd rs1) s = s.finish (okTriple rd (pnegF (s.triple rs1))) := rfl

theorem exec_psub : exec (.psub rd rs1 rs2) s = s.finish (okTriple rd (psubF (s.triple rs1) (s.triple rs2))) := rfl

theorem exec_paff : exec (.paff rd rs1) s = s.finish (paffOutcome rd (s.triple rs1)) := rfl

end

end Sys2Proof.Machine
end

section
/-! The formulas of R161, R163, R165 and R167, branch by branch, and the identities between them. -/

namespace Sys2Proof.Machine

/-! ## The field (R14) -/

/-- GF(p) has no zero divisors. -/
theorem Fp.mul_eq_zero_iff {a b : Fp} : a * b = 0 ↔ a = 0 ∨ b = 0 := by
  have : Fact (Nat.Prime p) := ⟨prime_p⟩
  rw [← toZ_eq_zero, toZ_mul, mul_eq_zero, toZ_eq_zero, toZ_eq_zero]

theorem Fp.mul_ne_zero_of_ne {a b : Fp} (ha : a ≠ 0) (hb : b ≠ 0) : a * b ≠ 0 :=
  Fp.mul_eq_zero_iff.not.mpr (not_or.mpr ⟨ha, hb⟩)

theorem Fp.sub_ne_zero_of_ne {a b : Fp} (h : a ≠ b) : a - b ≠ 0 := by
  rw [← toZ_ne_zero, toZ_sub, sub_ne_zero, Ne, toZ_inj]
  exact h

/-- GF(p) has odd characteristic, so only 0 is its own negative. -/
theorem Fp.eq_neg_self_iff {a : Fp} : a = -a ↔ a = 0 := by
  have : Fact (Nat.Prime p) := ⟨prime_p⟩
  rw [← toZ_inj, toZ_neg, eq_neg_iff_add_eq_zero, ← two_mul, mul_eq_zero, or_iff_right two_ne_zero_mod_p,
    toZ_eq_zero]

theorem Fp.neg_neg_eq (a : Fp) : - -a = a := by
  rw [← toZ_inj, toZ_neg, toZ_neg, neg_neg]

theorem Fp.neg_mul_left (a b : Fp) : -a * b = -(a * b) := by
  rw [← toZ_inj, toZ_mul, toZ_neg, toZ_neg, toZ_mul, neg_mul]

/-- inv_p of R14 is an inverse of every element but 0. -/
theorem mul_invP {a : Fp} (h : a ≠ 0) : a * invP a = 1 := by
  have : Fact (Nat.Prime p) := ⟨prime_p⟩
  rw [← toZ_inj, toZ_mul, toZ_invP, toZ_one, mul_inv_cancel₀ ((toZ_ne_zero a).mpr h)]

/-! ## canon (R160) -/

section
variable {A B : Triple}

theorem canon_of_Z_eq_zero (h : A.Z = 0) : canon A = INF := if_pos h

theorem canon_of_Z_ne_zero (h : A.Z ≠ 0) : canon A = A := if_neg h

/-! ## Doubling (R163) -/

theorem pdblF_of_Z_eq_zero (h : A.Z = 0) : pdblF A = INF := if_pos h

/-- A point with y = 0 is its own negative, so its double is ∞. -/
theorem pdblF_of_Z3_eq_zero (h : 2 * A.Y * A.Z = 0) : pdblF A = INF := by
  unfold pdblF
  split
  · rfl
  · exact if_pos h

/-- The point of the tangent at A, with the coordinates of R163. -/
def tangent (A : Triple) : Triple :=
  let S := 4 * A.X * sqr A.Y
  let M := 3 * sqr A.X
  let X3 := sqr M - 2 * S
  ⟨X3, M * (S - X3) - 8 * sqr (sqr A.Y), 2 * A.Y * A.Z⟩

theorem pdblF_of_Z3_ne_zero (h : A.Z ≠ 0) (h3 : 2 * A.Y * A.Z ≠ 0) : pdblF A = tangent A :=
  (if_neg h).trans (if_neg h3)

/-! ## Addition (R161) -/

theorem paddF_of_left_Z_eq_zero (hA : A.Z = 0) : paddF A B = canon B := if_pos hA

theorem paddF_of_right_Z_eq_zero (hA : A.Z ≠ 0) (hB : B.Z = 0) : paddF A B = A :=
  (if_neg hA).trans ((if_pos hB).trans (canon_of_Z_ne_zero hA))

/-- U1 = U2: the operands have one x-coordinate. -/
def SameX (A B : Triple) : Prop := A.X * sqr B.Z = B.X * sqr A.Z

/-- S1 = S2: the operands have one y-coordinate. -/
def SameY (A B : Triple) : Prop := A.Y * cube B.Z = B.Y * cube A.Z

/-- The last branch of R161: the third point of the chord through A and B, negated. -/
def chord (A B : Triple) : Triple :=
  let U1 := A.X * sqr B.Z
  let S1 := A.Y * cube B.Z
  let H := B.X * sqr A.Z - U1
  let R := B.Y * cube A.Z - S1
  let X3 := sqr R - cube H - 2 * U1 * sqr H
  ⟨X3, R * (U1 * sqr H - X3) - S1 * cube H, H * A.Z * B.Z⟩

section
variable (hA : A.Z ≠ 0) (hB : B.Z ≠ 0)
include hA hB

theorem paddF_of_equal (hU : SameX A B) (hS : SameY A B) : paddF A B = pdblF A :=
  (if_neg hA).trans ((if_neg hB).trans ((if_pos hU).trans (if_pos hS)))

theorem paddF_of_opposite (hU : SameX A B) (hS : ¬SameY A B) : paddF A B = INF :=
  (if_neg hA).trans ((if_neg hB).trans ((if_pos hU).trans (if_neg hS)))

theorem paddF_of_distinct (hU : ¬SameX A B) : paddF A B = chord A B :=
  (if_neg hA).trans ((if_neg hB).trans (if_neg hU))

/-- R161: "In the last branch H ≠ 0, Z1 ≠ 0 and Z2 ≠ 0, so Z3 ≠ 0." -/
theorem chord_Z_ne_zero (hU : ¬SameX A B) : (chord A B).Z ≠ 0 :=
  Fp.mul_ne_zero_of_ne (Fp.mul_ne_zero_of_ne (Fp.sub_ne_zero_of_ne (Ne.symm hU)) hA) hB

end

/-- Exchanging the operands changes the signs of H and R, and with them of Y and Z (R161). -/
theorem chord_swap (A B : Triple) : chord B A = ⟨(chord A B).X, -(chord A B).Y, -(chord A B).Z⟩ := by
  simp only [chord, Triple.mk.injEq, ← toZ_inj, toZ_neg, toZ_mul, toZ_sub, toZ_sqr, toZ_cube, toZ_ofNat]
  refine ⟨?_, ?_, ?_⟩ <;> ring

/-- R164: PADD of a triple with itself takes the doubling branch. -/
theorem paddF_self (hA : A.Z ≠ 0) : paddF A A = pdblF A := paddF_of_equal hA hA rfl rfl

/-! ## Negation and subtraction (R165, R166) -/

theorem pnegF_of_Z_eq_zero (h : A.Z = 0) : pnegF A = INF := if_pos h

theorem pnegF_of_Z_ne_zero (h : A.Z ≠ 0) : pnegF A = ⟨A.X, -A.Y, A.Z⟩ := if_neg h

theorem pnegF_Z_eq_zero (h : A.Z = 0) : (pnegF A).Z = 0 := by rw [pnegF_of_Z_eq_zero h]; rfl

/-- The coordinates of R165, with −Y as (p − Y) mod p. -/
theorem pnegF_coordinates (h : A.Z ≠ 0) :
    (pnegF A).X = A.X ∧ (pnegF A).Y.val = (p - A.Y.val) % p ∧ (pnegF A).Z = A.Z := by
  rw [pnegF_of_Z_ne_zero h]
  exact ⟨rfl, Fin.val_neg' A.Y, rfl⟩

/-- R165: −(x, y) = (x, −y) on E. -/
theorem denotes_pnegF {P : secp.Point} (hA : Denotes A P) : Denotes (pnegF A) (-P) := by
  obtain ⟨hz, rfl⟩ | ⟨hz, x, y, h, rfl, hX, hY⟩ := hA
  · rw [pnegF_of_Z_eq_zero hz]
    exact denotes_infinity _ rfl
  · rw [pnegF_of_Z_ne_zero hz, WeierstrassCurve.Affine.Point.neg_some]
    refine .inr ⟨hz, _, _, _, rfl, hX, ?_⟩
    rw [secp_negY, toZ_neg, hY, neg_mul]

/-- R165: PNEG twice gives the operand back, with ∞ as INF. -/
theorem pnegF_pnegF (A : Triple) : pnegF (pnegF A) = canon A := by
  by_cases h : A.Z = 0
  · rw [canon_of_Z_eq_zero h, pnegF_of_Z_eq_zero (pnegF_Z_eq_zero h)]
  · have h' : (⟨A.X, -A.Y, A.Z⟩ : Triple).Z ≠ 0 := h
    rw [canon_of_Z_ne_zero h, pnegF_of_Z_ne_zero h, pnegF_of_Z_ne_zero h', Fp.neg_neg_eq]

/-- R166: subtracting ∞ gives the first operand. -/
theorem psubF_of_right_Z_eq_zero (hB : B.Z = 0) : psubF A B = canon A := by
  by_cases hA : A.Z = 0
  · rw [psubF, paddF_of_left_Z_eq_zero hA, canon_of_Z_eq_zero (pnegF_Z_eq_zero hB), canon_of_Z_eq_zero hA]
  · rw [psubF, paddF_of_right_Z_eq_zero hA (pnegF_Z_eq_zero hB), canon_of_Z_ne_zero hA]

/-- R166: subtracting from ∞ negates. -/
theorem psubF_of_left_Z_eq_zero (hA : A.Z = 0) : psubF A B = pnegF B := by
  rw [psubF, paddF_of_left_Z_eq_zero hA]
  by_cases hB : B.Z = 0
  · rw [canon_of_Z_eq_zero (pnegF_Z_eq_zero hB), pnegF_of_Z_eq_zero hB]
  · exact canon_of_Z_ne_zero (by rwa [pnegF_of_Z_ne_zero hB])

/-- R166: a point minus itself is ∞. With Y = 0 the operand is its own negative and is doubled; else the two are
opposite. -/
theorem psubF_self (hA : A.Z ≠ 0) : psubF A A = INF := by
  rw [psubF, pnegF_of_Z_ne_zero hA]
  have hS : SameY A ⟨A.X, -A.Y, A.Z⟩ ↔ A.Y = 0 := by
    have hcube : cube A.Z ≠ 0 := Fp.mul_ne_zero_of_ne (Fp.mul_ne_zero_of_ne hA hA) hA
    rw [SameY, Fp.neg_mul_left, Fp.eq_neg_self_iff, Fp.mul_eq_zero_iff, or_iff_left hcube]
  by_cases hy : A.Y = 0
  · have h3 : 2 * A.Y * A.Z = 0 := Fp.mul_eq_zero_iff.mpr (.inl (Fp.mul_eq_zero_iff.mpr (.inr hy)))
    exact (paddF_of_equal (B := ⟨A.X, -A.Y, A.Z⟩) hA hA rfl (hS.mpr hy)).trans (pdblF_of_Z3_eq_zero h3)
  · exact paddF_of_opposite hA hA rfl (hS.not.mpr hy)

/-! ## Results (R168) -/

theorem canon_eq_INF_of_Z_eq_zero (h : (canon A).Z = 0) : canon A = INF := by
  by_cases hA : A.Z = 0
  · exact canon_of_Z_eq_zero hA
  · exact absurd (canon_of_Z_ne_zero hA ▸ h) hA

theorem pdblF_eq_INF_of_Z_eq_zero (h : (pdblF A).Z = 0) : pdblF A = INF := by
  by_cases h3 : 2 * A.Y * A.Z = 0
  · exact pdblF_of_Z3_eq_zero h3
  · by_cases hA : A.Z = 0
    · exact pdblF_of_Z_eq_zero hA
    · rw [pdblF_of_Z3_ne_zero hA h3] at h
      exact absurd h h3

theorem paddF_eq_INF_of_Z_eq_zero (h : (paddF A B).Z = 0) : paddF A B = INF := by
  by_cases hA : A.Z = 0
  · rw [paddF_of_left_Z_eq_zero hA] at h ⊢
    exact canon_eq_INF_of_Z_eq_zero h
  by_cases hB : B.Z = 0
  · exact absurd (paddF_of_right_Z_eq_zero hA hB ▸ h) hA
  by_cases hU : SameX A B
  · by_cases hS : SameY A B
    · rw [paddF_of_equal hA hB hU hS] at h ⊢
      exact pdblF_eq_INF_of_Z_eq_zero h
    · exact paddF_of_opposite hA hB hU hS
  · exact absurd (paddF_of_distinct hA hB hU ▸ h) (chord_Z_ne_zero hA hB hU)

theorem pnegF_eq_INF_of_Z_eq_zero (h : (pnegF A).Z = 0) : pnegF A = INF := by
  by_cases hA : A.Z = 0
  · exact pnegF_of_Z_eq_zero hA
  · rw [pnegF_of_Z_ne_zero hA] at h
    exact absurd h hA

/-! ## PAFF (R167) -/

theorem paffOutcome_of_Z_eq_zero (rd : Reg) (h : A.Z = 0) : paffOutcome rd A = .error .state := by
  rw [paffOutcome, affine, if_pos h]

theorem paffOutcome_of_Z_ne_zero (rd : Reg) (h : A.Z ≠ 0) :
    paffOutcome rd A = okTriple rd ⟨A.X * sqr (invP A.Z), A.Y * cube (invP A.Z), 1⟩ := by
  rw [paffOutcome, affine, if_neg h]
  rfl

/-- The coordinates that PAFF writes are the affine ones. -/
theorem affineOf_invP (h : A.Z ≠ 0) : AffineOf A (A.X * sqr (invP A.Z)) (A.Y * cube (invP A.Z)) :=
  ⟨invP A.Z, mul_invP h, rfl, rfl⟩

end

end Sys2Proof.Machine
end

section
/-! The statements on PADD, PDBL, PNEG, PSUB and PAFF (42_point_arithmetic.md). -/

namespace Sys2Proof.Machine

/-- Settles O16: the branches of R161, and the chord under an exchange of the operands. -/
theorem paddAddsTriples : Obligations.PaddAddsTriples := by
  unfold Obligations.PaddAddsTriples
  intro rd rs1 rs2 s A B hAX hAY hAZ hBX hBY hBZ
  have hexec := exec_padd rd rs1 rs2 s
  rw [Block.triple_eq_of_val hAX hAY hAZ, Block.triple_eq_of_val hBX hBY hBZ] at hexec
  obtain ⟨t, ht, hw⟩ := writesTriple_of_exec_okTriple hexec
  refine ⟨encodedAs_of_encode (pack_eq_cmdWord 0x20 0 rd rs1 rs2 0), _, t, ht, hw, fun hA hB => ?_, fun hA hB => ?_,
    fun hA hB => paddF_of_right_Z_eq_zero hA hB, fun hA hB => ⟨fun hU hS => ?_, fun hU hS => ?_, fun hU => ?_⟩⟩
  · exact (paddF_of_left_Z_eq_zero hA).trans (canon_of_Z_eq_zero hB)
  · exact (paddF_of_left_Z_eq_zero hA).trans (canon_of_Z_ne_zero hB)
  · exact paddF_of_equal hA hB hU hS
  · exact paddF_of_opposite hA hB hU hS
  · rw [paddF_of_distinct hA hB hU, paddF_of_distinct hB hA (Ne.symm hU)]
    exact ⟨rfl, rfl, rfl, chord_Z_ne_zero hA hB hU, chord_swap A B⟩

/-- Settles O17: the branches of R163; equal operands pass both comparisons of R161. -/
theorem pdblDoublesTriples : Obligations.PdblDoublesTriples := by
  unfold Obligations.PdblDoublesTriples
  intro rd rs1 s A hX hY hZ
  have hA : s.triple rs1 = A := Block.triple_eq_of_val hX hY hZ
  have hexec := exec_pdbl rd rs1 s
  rw [hA] at hexec
  obtain ⟨t, ht, hw⟩ := writesTriple_of_exec_okTriple hexec
  refine ⟨encodedAs_of_encode (pack_eq_cmdWord 0x21 0 rd rs1 0 0), fun hz _ => ?_, _, t, ht, hw,
    fun hz => pdblF_of_Z_eq_zero hz, fun hz => ⟨fun h3 => pdblF_of_Z3_eq_zero h3, fun h3 => ?_⟩⟩
  · rw [exec_padd, hA, paddF_self hz, hexec]
  · rw [pdblF_of_Z3_ne_zero hz h3]
    exact ⟨rfl, rfl, rfl⟩

/-- Settles O18: the two cases of R165, a second PNEG on what the first wrote, and the corner cases of R166. -/
theorem pnegAndPsub : Obligations.PnegAndPsub := by
  unfold Obligations.PnegAndPsub
  intro rd rs1 rs2 s A B hAX hAY hAZ hBX hBY hBZ
  have hA : s.triple rs1 = A := Block.triple_eq_of_val hAX hAY hAZ
  have hB : s.triple rs2 = B := Block.triple_eq_of_val hBX hBY hBZ
  refine ⟨encodedAs_of_encode (pack_eq_cmdWord 0x22 0 rd rs1 0 0),
    encodedAs_of_encode (pack_eq_cmdWord 0x23 0 rd rs1 rs2 0), ?_, ?_⟩
  · obtain ⟨t, ht, hw⟩ := writesTriple_of_exec_okTriple (exec_pneg rd rs1 s)
    have hback := exec_pneg rd rd t
    rw [hw.triple_eq, pnegF_pnegF] at hback
    rw [hA] at hw hback
    exact ⟨_, t, ht, hw, pnegF_of_Z_eq_zero, pnegF_coordinates, writesTriple_of_exec_okTriple hback⟩
  · obtain ⟨t, ht, hw⟩ := writesTriple_of_exec_okTriple (exec_psub rd rs1 rs2 s)
    rw [hA, hB] at hw
    exact ⟨_, pnegF B, t, ht, hw, rfl, pnegF_of_Z_eq_zero, pnegF_coordinates,
      fun hAB hz => hAB ▸ psubF_self hz, psubF_of_right_Z_eq_zero, psubF_of_left_Z_eq_zero⟩

/-- Settles O19: PAFF's outcome in the two cases of Z. -/
theorem paffNormalises : Obligations.PaffNormalises := by
  unfold Obligations.PaffNormalises
  intro rd rs1 s A hX hY hZ
  have hexec := exec_paff rd rs1 s
  rw [Block.triple_eq_of_val hX hY hZ] at hexec
  refine ⟨encodedAs_of_encode (pack_eq_cmdWord 0x24 0 rd rs1 0 0), fun hz => ?_, fun hz => ?_⟩
  · rw [paffOutcome_of_Z_eq_zero rd hz] at hexec
    exact failsWith_of_exec_error hexec
  · rw [paffOutcome_of_Z_ne_zero rd hz] at hexec
    obtain ⟨t, ht, hw⟩ := writesTriple_of_exec_okTriple hexec
    exact ⟨_, _, t, ht, hw, affineOf_invP hz⟩

/-- PADD, PDBL, PNEG and PSUB write a triple that is INF or has Z ≠ 0 (R168). -/
theorem exec_writes_normal_triple {rd rs1 rs2 : Reg} {s t : State} {i : Instr}
    (hi : i = .padd rd rs1 rs2 ∨ i = .pdbl rd rs1 ∨ i = .pneg rd rs1 ∨ i = .psub rd rs1 rs2)
    (h : exec i s = .next t) : ∃ T, WritesTriple s t rd T ∧ (T.Z = 0 → T = INF) := by
  have hwrites {T : Triple} (hT : exec i s = s.finish (okTriple rd T)) : WritesTriple s t rd T := by
    cases Host.Outcome.next.inj (h.symm.trans hT)
    exact writesTriple_complete_okTriple s rd T
  obtain rfl | rfl | rfl | rfl := hi
  · exact ⟨_, hwrites (exec_padd ..), paddF_eq_INF_of_Z_eq_zero⟩
  · exact ⟨_, hwrites (exec_pdbl ..), pdblF_eq_INF_of_Z_eq_zero⟩
  · exact ⟨_, hwrites (exec_pneg ..), pnegF_eq_INF_of_Z_eq_zero⟩
  · exact ⟨_, hwrites (exec_psub ..), paddF_eq_INF_of_Z_eq_zero⟩

/-- Settles O20: the triple written is INF or has Z ≠ 0, and its coordinates fit their registers. -/
theorem pointResultsAreNormal : Obligations.PointResultsAreNormal := by
  unfold Obligations.PointResultsAreNormal
  intro rd rs1 rs2 s t i
  refine ⟨fun hi h => ?_, ?_⟩
  · obtain ⟨T, hw, hinf⟩ := exec_writes_normal_triple hi h
    obtain ⟨hX, hY, hZ⟩ := hw.regs_eq
    rw [hX, hY, hZ]
    refine ⟨T.X.toNat_toVal ▸ T.X.isLt, T.Y.toNat_toVal ▸ T.Y.isLt, T.Z.toNat_toVal ▸ T.Z.isLt, fun h0 => ?_⟩
    have hz : T.Z = 0 := by
      rw [← toFp_toNat_toVal T.Z, h0]
      rfl
    rw [hinf hz]
    decide
  · rintro rfl h herr
    rw [exec_paff] at h
    by_cases hz : (s.triple rs1).Z = 0
    · rw [paffOutcome_of_Z_eq_zero rd hz] at h
      cases Host.Outcome.next.inj h
      exact absurd herr (by simp [Block.complete_error])
    · rw [paffOutcome_of_Z_ne_zero rd hz] at h
      cases Host.Outcome.next.inj h
      exact (writesTriple_complete_okTriple s rd _).puts.destZ

/-- Settles O21: the formulas' agreement with Mathlib's addition, doubling and negation. -/
theorem paddIsGroupAddition : Obligations.PaddIsGroupAddition := by
  unfold Obligations.PaddIsGroupAddition
  intro _ A B P Q hA hB
  refine ⟨denotes_paddF hA hB, denotes_pdblF hA, denotes_pnegF hA, ?_⟩
  rw [sub_eq_add_neg]
  exact denotes_paddF hA (denotes_pnegF hB)

end Sys2Proof.Machine
end

section
/-! smul of R180: the on-curve test is membership in E, and past it the outcome is a multiple in E, normalised. -/

namespace Sys2Proof.Machine

/-! ## The on-curve test -/

theorem secp_equation_iff (x y : ZMod p) : secp.Equation x y ↔ y ^ 2 = x ^ 3 + 7 := by
  simp [WeierstrassCurve.Affine.equation_iff, secp]

/-- E has no singular point: its discriminant is −432·7². -/
theorem secp_Δ_ne_zero : secp.Δ ≠ 0 := by
  have hΔ : secp.Δ = toZ (-toFp (432 * 7 ^ 2)) := by
    rw [toZ_neg, toZ_toFp]
    simp only [WeierstrassCurve.Δ, WeierstrassCurve.b₂, WeierstrassCurve.b₄, WeierstrassCurve.b₆, WeierstrassCurve.b₈,
      secp]
    push_cast
    ring
  rw [hΔ, toZ_ne_zero]
  decide

section
variable {T : Triple}

/-- The model's test of R180 and the rule's equation differ only in how the product Z⁶ is associated. -/
theorem onCurve_iff (T : Triple) : onCurve T = true ↔ toZ T.Y ^ 2 = toZ T.X ^ 3 + 7 * toZ T.Z ^ 6 := by
  rw [onCurve, decide_eq_true_iff, ← toZ_inj]
  simp only [toZ_add, toZ_mul, toZ_sqr, toZ_cube, toZ_toFp, curveB, Nat.cast_ofNat, ← pow_mul]

theorem onCurveOrInf_iff (T : Triple) : OnCurveOrInf T ↔ T.Z = 0 ∨ onCurve T = true := by
  rw [OnCurveOrInf, onCurve_iff, ← toZ_inj (T.Y * T.Y)]
  simp only [toZ_add, toZ_mul, toZ_ofNat]
  ring_nf

/-- The triples that pass the test of R180 are those of the points of E. -/
theorem onCurveOrInf_iff_exists_denotes [Fact (Nat.Prime p)] (T : Triple) :
    OnCurveOrInf T ↔ ∃ P : secp.Point, Denotes T P := by
  rw [onCurveOrInf_iff, onCurve_iff]
  constructor
  · intro h
    by_cases hz : T.Z = 0
    · exact ⟨.zero, denotes_infinity T hz⟩
    have hZ : toZ T.Z ≠ 0 := (toZ_ne_zero _).mpr hz
    have heq : secp.Equation (toZ T.X / toZ T.Z ^ 2) (toZ T.Y / toZ T.Z ^ 3) := by
      rw [secp_equation_iff]
      field_simp
      rw [h.resolve_left hz, mul_comm]
    have hns := (WeierstrassCurve.Affine.equation_iff_nonsingular_of_Δ_ne_zero secp_Δ_ne_zero).mp heq
    exact ⟨.some _ _ hns, .inr ⟨hz, _, _, hns, rfl, (div_mul_cancel₀ _ (pow_ne_zero 2 hZ)).symm,
      (div_mul_cancel₀ _ (pow_ne_zero 3 hZ)).symm⟩⟩
  · rintro ⟨P, ⟨hz, -⟩ | ⟨-, x, y, hns, -, hX, hY⟩⟩
    · exact .inl hz
    · have heq := (secp_equation_iff x y).mp hns.1
      right
      rw [hX, hY]
      linear_combination toZ T.Z ^ 6 * heq

theorem normalised_normal (T : Triple) : Normalised (normal T) := by
  rw [normal]
  cases affine T with
  | none => exact .inl rfl
  | some _ => exact .inr rfl

/-! ## The outcome -/

theorem pmulOutcome_of_not_onCurveOrInf (rd : Reg) (k : Nat) (h : ¬OnCurveOrInf T) :
    pmulOutcome rd T k = .error .domain := by
  rw [onCurveOrInf_iff, not_or, Bool.not_eq_true] at h
  rw [pmulOutcome, smul, if_pos h]

theorem pmulOutcome_of_onCurveOrInf (rd : Reg) (k : Nat) (h : OnCurveOrInf T) :
    pmulOutcome rd T k = okTriple rd (normal (mulPoint (k % n) T)) := by
  rw [onCurveOrInf_iff, or_iff_not_imp_left, ← Bool.not_eq_false, ← not_and] at h
  rw [pmulOutcome, smul, if_neg h]

/-- R180 for a triple of a point of E: what the command writes, past the on-curve test. -/
theorem exists_multiple_of_exec_pmulOutcome [Fact (Nat.Prime p)] {i : Instr} {s : State} {rd : Reg} {k : Nat}
    {P : secp.Point} (hT : Denotes T P) (h : exec i s = s.finish (pmulOutcome rd T k)) :
    ∃ Q t, exec i s = .next t ∧ WritesTriple s t rd Q ∧ Normalised Q ∧ Denotes Q ((k % n) • P) := by
  rw [pmulOutcome_of_onCurveOrInf rd k ((onCurveOrInf_iff_exists_denotes T).mpr ⟨P, hT⟩)] at h
  obtain ⟨t, ht, hw⟩ := writesTriple_of_exec_okTriple h
  have hk : k % n < 2 ^ 256 := (Nat.mod_lt k (by decide)).trans (by decide)
  exact ⟨_, t, ht, hw, normalised_normal _, denotes_normal (denotes_mulPoint _ hk hT)⟩

end

/-- G is on the curve (R183). -/
theorem onCurveOrInf_G : OnCurveOrInf G := .inr (by decide)

/-- G has order n, so reducing the scalar mod n changes no multiple of G (R183). -/
theorem mod_n_nsmul_generator [Fact (Nat.Prime p)] {g : secp.Point} (hg : Denotes G g) (k : Nat) :
    (k % n) • g = k • g := by
  rw [← addOrderOf_generator hg, mod_addOrderOf_nsmul]

end Sys2Proof.Machine
end

section
/-! The statements on PMUL and PMULG and their .S forms (43_scalar_multiplication.md). -/

namespace Sys2Proof.Machine

/-- Settles O22: a triple passes the on-curve test exactly when it is one of a point of E. -/
theorem pmulMultipliesPoints : Obligations.PmulMultipliesPoints := by
  unfold Obligations.PmulMultipliesPoints
  intro _ rd rs1 rs2 s
  refine ⟨encodedAs_of_encode (pack_eq_cmdWord 0x30 0 rd rs1 rs2 0),
    encodedAs_of_encode (pack_eq_cmdWord 0x31 0 rd rs1 rs2 0), fun i hi => ⟨fun hoff => ?_, fun hon => ?_⟩⟩
  · have hexec := exec_pmul_forms (s := s) hi
    rw [pmulOutcome_of_not_onCurveOrInf _ _ hoff] at hexec
    exact failsWith_of_exec_error hexec
  · obtain ⟨P, hP⟩ := (onCurveOrInf_iff_exists_denotes _).mp hon
    obtain ⟨T, t, ht, hw, hnorm, hT⟩ := exists_multiple_of_exec_pmulOutcome hP (exec_pmul_forms hi)
    exact ⟨P, T, t, hP, ht, hw, hnorm, hT⟩

/-- Settles O23: PMULG is R180 on a triple of g, whose order is n. -/
theorem pmulgMultipliesGenerator : Obligations.PmulgMultipliesGenerator := by
  unfold Obligations.PmulgMultipliesGenerator
  intro _
  obtain ⟨g, hg⟩ := (onCurveOrInf_iff_exists_denotes G).mp onCurveOrInf_G
  refine ⟨g, hg, fun rd rs1 s => ⟨encodedAs_of_encode (pack_eq_cmdWord 0x32 0 rd rs1 0 0),
    encodedAs_of_encode (pack_eq_cmdWord 0x33 0 rd rs1 0 0), fun i hi => ?_⟩⟩
  obtain ⟨T, t, ht, hw, hnorm, hT⟩ := exists_multiple_of_exec_pmulOutcome hg (exec_pmulg_forms hi)
  exact ⟨T, t, ht, hw, hnorm, mod_n_nsmul_generator hg (s.val rs1) ▸ hT⟩

end Sys2Proof.Machine
end

section
/-! The affine coordinates of a triple (R16) as solutions of X = x·Z² and Y = y·Z³, and the comparisons of R197 and R198 on
them. -/

namespace Sys2Proof.Machine

section
variable {A B T : Triple} {x y x' y' : Fp}

/-! ## Affine coordinates -/

/-- The affine coordinates of T without an inverse: X = x·Z² and Y = y·Z³. -/
theorem affineOf_iff :
    AffineOf T x y ↔ T.Z ≠ 0 ∧ toZ T.X = toZ x * toZ T.Z ^ 2 ∧ toZ T.Y = toZ y * toZ T.Z ^ 3 := by
  have hscale (zi : Fp) (h : T.Z * zi = 1) : toZ T.Z * toZ zi = 1 := by rw [← toZ_mul, h, toZ_one]
  constructor
  · rintro ⟨zi, h, rfl, rfl⟩
    have hzi := hscale zi h
    refine ⟨fun h0 => ?_, ?_, ?_⟩
    · rw [h0, toZ_zero, zero_mul] at hzi
      exact absurd hzi (by decide)
    · simp only [toZ_mul]
      linear_combination (-toZ T.X * (toZ T.Z * toZ zi + 1)) * hzi
    · simp only [toZ_mul]
      linear_combination (-toZ T.Y * ((toZ T.Z * toZ zi) ^ 2 + toZ T.Z * toZ zi + 1)) * hzi
  · rintro ⟨hz, hX, hY⟩
    have hzi := hscale (invP T.Z) (mul_invP hz)
    refine ⟨invP T.Z, mul_invP hz, ?_, ?_⟩
    · rw [← toZ_inj]
      simp only [toZ_mul, hX]
      linear_combination (-toZ x * (toZ T.Z * toZ (invP T.Z) + 1)) * hzi
    · rw [← toZ_inj]
      simp only [toZ_mul, hY]
      linear_combination (-toZ y * ((toZ T.Z * toZ (invP T.Z)) ^ 2 + toZ T.Z * toZ (invP T.Z) + 1)) * hzi

theorem exists_affineOf (h : T.Z ≠ 0) : ∃ x y, AffineOf T x y := ⟨_, _, affineOf_invP h⟩

/-- The comparisons of R161 and R198 compare the affine coordinates. -/
theorem AffineOf.same_iff (hA : AffineOf A x y) (hB : AffineOf B x' y') :
    (SameX A B ↔ x = x') ∧ (SameY A B ↔ y = y') := by
  have : Fact (Nat.Prime p) := ⟨prime_p⟩
  obtain ⟨hz, hX, hY⟩ := affineOf_iff.mp hA
  obtain ⟨hz', hX', hY'⟩ := affineOf_iff.mp hB
  have hZZ : toZ A.Z * toZ B.Z ≠ 0 := mul_ne_zero ((toZ_ne_zero _).mpr hz) ((toZ_ne_zero _).mpr hz')
  rw [← toZ_inj x, ← toZ_inj y]
  constructor
  · exact eq_iff_of_scaled (by rw [toZ_mul, toZ_sqr, hX]; ring) (by rw [toZ_mul, toZ_sqr, hX']; ring)
      (pow_ne_zero 2 hZZ)
  · exact eq_iff_of_scaled (by rw [toZ_mul, toZ_cube, hY]; ring) (by rw [toZ_mul, toZ_cube, hY']; ring)
      (pow_ne_zero 3 hZZ)

theorem AffineOf.unique (h : AffineOf T x y) (h' : AffineOf T x' y') : x = x' ∧ y = y' := by
  obtain ⟨hx, hy⟩ := h.same_iff h'
  exact ⟨hx.mp rfl, hy.mp rfl⟩

theorem AffineOf.affine_eq (h : AffineOf T x y) : affine T = some (x, y) := by
  have hz : T.Z ≠ 0 := (affineOf_iff.mp h).1
  obtain ⟨rfl, rfl⟩ := h.unique (affineOf_invP hz)
  exact if_neg hz

theorem AffineOf.normal_eq (h : AffineOf T x y) : normal T = ⟨x, y, 1⟩ := by rw [normal, h.affine_eq]; rfl

theorem affine_of_Z_eq_zero (h : T.Z = 0) : affine T = none := if_pos h

theorem normal_of_Z_eq_zero (h : T.Z = 0) : normal T = INF := by rw [normal, affine_of_Z_eq_zero h]; rfl

/-- The affine coordinates of a point of the curve solve y² = x³ + 7. -/
theorem AffineOf.equation (h : AffineOf T x y) (hon : OnCurveOrInf T) : y * y = x * x * x + 7 := by
  have : Fact (Nat.Prime p) := ⟨prime_p⟩
  obtain ⟨hz, hX, hY⟩ := affineOf_iff.mp h
  have hcurve := (onCurve_iff T).mp (((onCurveOrInf_iff T).mp hon).resolve_left hz)
  rw [hX, hY] at hcurve
  rw [← toZ_inj]
  simp only [toZ_add, toZ_mul, toZ_ofNat]
  refine mul_right_cancel₀ (pow_ne_zero 6 ((toZ_ne_zero _).mpr hz)) ?_
  linear_combination hcurve

/-- R165 on affine coordinates. -/
theorem AffineOf.neg (h : AffineOf T x y) : AffineOf (pnegF T) x (-y) := by
  have hz : T.Z ≠ 0 := (affineOf_iff.mp h).1
  obtain ⟨zi, hzi, rfl, rfl⟩ := h
  rw [pnegF_of_Z_ne_zero hz]
  exact ⟨zi, hzi, rfl, (Fp.neg_mul_left _ _).symm⟩

/-! ## PVALID and PEQ (R197, R198) -/

/-- The model's test of R197 is the rule's. -/
theorem Z_ne_zero_and_onCurve (T : Triple) : (decide (T.Z ≠ 0) && onCurve T) =
    decide (T.Z ≠ 0 ∧ T.Y * T.Y = T.X * T.X * T.X + 7 * (T.Z * T.Z * T.Z * T.Z * T.Z * T.Z)) := by
  rw [Bool.eq_iff_iff, Bool.and_eq_true, decide_eq_true_iff, decide_eq_true_iff]
  refine and_congr_right fun hz => ?_
  have h := onCurveOrInf_iff T
  rwa [OnCurveOrInf, or_iff_right hz, or_iff_right hz, iff_comm] at h

theorem peqF_of_both_Z_eq_zero (hA : A.Z = 0) (hB : B.Z = 0) : peqF A B = true := if_pos ⟨hA, hB⟩

theorem peqF_of_left_Z_eq_zero (hA : A.Z = 0) (hB : B.Z ≠ 0) : peqF A B = false :=
  (if_neg fun h => hB h.2).trans (if_pos (.inl hA))

theorem peqF_of_right_Z_eq_zero (hA : A.Z ≠ 0) (hB : B.Z = 0) : peqF A B = false :=
  (if_neg fun h => hA h.1).trans (if_pos (.inr hB))

section
variable (hA : A.Z ≠ 0) (hB : B.Z ≠ 0)
include hA hB

theorem peqF_iff_same : peqF A B = true ↔ SameX A B ∧ SameY A B := by
  rw [peqF, if_neg fun h => hA h.1, if_neg (not_or.mpr ⟨hA, hB⟩), Bool.and_eq_true, decide_eq_true_iff,
    decide_eq_true_iff, SameX, SameY]

/-- R198: PEQ's comparison holds exactly for two triples of one affine point. -/
theorem peqF_iff_affineOf : peqF A B = true ↔ ∃ x y, AffineOf A x y ∧ AffineOf B x y := by
  obtain ⟨x, y, hAx⟩ := exists_affineOf hA
  obtain ⟨x', y', hBx⟩ := exists_affineOf hB
  obtain ⟨hsx, hsy⟩ := hAx.same_iff hBx
  rw [peqF_iff_same hA hB, hsx, hsy]
  constructor
  · rintro ⟨rfl, rfl⟩
    exact ⟨x, y, hAx, hBx⟩
  · rintro ⟨u, v, hAu, hBu⟩
    obtain ⟨rfl, rfl⟩ := hAx.unique hAu
    exact hBu.unique hBx

end

end

end Sys2Proof.Machine
end

section
/-! `lift` of R190: square roots mod p, and the parities of a root and of its negative. -/

namespace Sys2Proof.Machine

/-! ## Square roots (R14) -/

section
variable {y z : Fp}

/-- sqrt_p of R14 is a root of every square, since p ≡ 3 mod 4. -/
theorem sqr_sqrtP (y : Fp) : sqr (sqrtP (sqr y)) = sqr y := by
  have : Fact (Nat.Prime p) := ⟨prime_p⟩
  rw [← toZ_inj, toZ_sqr, toZ_sqr, sqrtP, toZ_fpPow _ _ (by decide), toZ_sqr, ← pow_mul, ← pow_mul,
    show 2 * ((p + 1) / 4 * 2) = p + 1 by decide, pow_succ, ZMod.pow_card, pow_two]

theorem sqr_neg (y : Fp) : sqr (-y) = sqr y := by
  rw [← toZ_inj, toZ_sqr, toZ_sqr, toZ_neg, neg_sq]

theorem eq_or_eq_neg_of_sqr_eq (h : sqr y = sqr z) : y = z ∨ y = -z := by
  have : Fact (Nat.Prime p) := ⟨prime_p⟩
  rw [← toZ_inj, toZ_sqr, toZ_sqr, sq_eq_sq_iff_eq_or_eq_neg] at h
  rwa [← toZ_inj, ← toZ_inj, toZ_neg]

/-- p is odd, so y and p − y have different parities (R190). -/
theorem sgn0_neg (h : y ≠ 0) : sgn0 (-y) = 1 - sgn0 y := by
  have hpos : y.val ≠ 0 := fun h0 => h (Fin.ext h0)
  have hlt : y.val < p := y.isLt
  have hodd : p % 2 = 1 := by decide
  have hsub : p - y.val < p := by omega
  rw [sgn0, sgn0, Fin.val_neg', Nat.mod_eq_of_lt hsub]
  omega

/-- A square has at most one root of each parity. -/
theorem eq_of_sqr_eq_of_sgn0_eq (h : sqr y = sqr z) (hs : sgn0 y = sgn0 z) : y = z := by
  obtain rfl | rfl := eq_or_eq_neg_of_sqr_eq h
  · rfl
  · by_contra hne
    have hz : z ≠ 0 := by
      rintro rfl
      exact hne rfl
    have hlt : sgn0 z < 2 := Nat.mod_lt _ (by decide)
    rw [sgn0_neg hz] at hs
    omega

/-- The choice of R190 between a root and its negative. -/
def withParity (y : Fp) (par : Nat) : Fp := if sgn0 y ≠ par then -y else y

theorem sqr_withParity (y : Fp) (par : Nat) : sqr (withParity y par) = sqr y := by
  unfold withParity
  split
  · exact sqr_neg y
  · rfl

theorem sgn0_withParity (hy : y ≠ 0) {par : Nat} (hpar : par < 2) : sgn0 (withParity y par) = par := by
  have hlt : sgn0 y < 2 := Nat.mod_lt _ (by decide)
  unfold withParity
  split
  · rw [sgn0_neg hy]
    omega
  · next h => exact not_not.mp h

end

/-! ## The curve's right-hand side -/

/-- −7 is no cube mod p, so no point of E has y = 0 (R49). -/
theorem cube_add_seven_ne_zero (x : Fp) : x * x * x + 7 ≠ 0 := by
  have : Fact (Nat.Prime p) := ⟨prime_p⟩
  intro h
  have h3 : toZ x ^ 3 = toZ (-7) := by
    have hz := congrArg toZ h
    simp only [toZ_add, toZ_mul, toZ_ofNat, toZ_zero] at hz
    rw [toZ_neg, toZ_ofNat]
    linear_combination hz
  have hx : toZ x ≠ 0 := by
    intro h0
    rw [h0, zero_pow (by decide), eq_comm, toZ_eq_zero] at h3
    exact absurd h3 (by decide)
  have hpow : fpPow (-7) ((p - 1) / 3) = 1 := by
    rw [← toZ_inj, toZ_fpPow _ _ (by decide), ← h3, ← pow_mul, show 3 * ((p - 1) / 3) = p - 1 by decide, toZ_one]
    exact ZMod.pow_card_sub_one_eq_one hx
  exact absurd hpow (by decide +kernel)

theorem ne_zero_of_sqr_eq {x r : Fp} (h : sqr r = x * x * x + 7) : r ≠ 0 := by
  rintro rfl
  exact cube_add_seven_ne_zero x h.symm

/-! ## lift -/

theorem toFp_val (x : Fp) : toFp x.val = x := Fin.ext (Nat.mod_eq_of_lt x.isLt)

theorem lift_of_ge {xv : Nat} (par : Nat) (h : p ≤ xv) : lift xv par = none := if_pos h

theorem lift_val (x : Fp) (par : Nat) : lift x.val par =
    if sqr (sqrtP (x * x * x + 7)) ≠ x * x * x + 7 then none
    else some (x, withParity (sqrtP (x * x * x + 7)) par) := by
  rw [lift, if_neg (Nat.not_le.mpr x.isLt), toFp_val]
  rfl

/-- R190: lift finds the point of the curve with a given x and parity of y, and nothing else. -/
theorem lift_eq_some_iff {xv par : Nat} {x y : Fp} (hpar : par < 2) :
    lift xv par = some (x, y) ↔ x.val = xv ∧ y * y = x * x * x + 7 ∧ y.val % 2 = par := by
  constructor
  · intro h
    by_cases hlt : xv < p
    · obtain ⟨u, rfl⟩ : ∃ u : Fp, u.val = xv := ⟨⟨xv, hlt⟩, rfl⟩
      rw [lift_val] at h
      split at h
      · cases h
      · next hroot =>
        cases h
        have hsqr := not_not.mp hroot
        exact ⟨rfl, (sqr_withParity _ par).trans hsqr, sgn0_withParity (ne_zero_of_sqr_eq hsqr) hpar⟩
    · rw [lift_of_ge par (Nat.not_lt.mp hlt)] at h
      cases h
  · rintro ⟨rfl, heq, hy⟩
    have hroot : sqr (sqrtP (x * x * x + 7)) = x * x * x + 7 := by
      rw [← heq]
      exact sqr_sqrtP y
    have hsqr : sqr (withParity (sqrtP (x * x * x + 7)) par) = sqr y :=
      (sqr_withParity _ par).trans (hroot.trans heq.symm)
    have hpar' : sgn0 (withParity (sqrtP (x * x * x + 7)) par) = sgn0 y :=
      (sgn0_withParity (ne_zero_of_sqr_eq hroot) hpar).trans hy.symm
    rw [lift_val, if_neg (not_not.mpr hroot), eq_of_sqr_eq_of_sgn0_eq hsqr hpar']

/-- Settles O28: a root of x³ + 7 exists exactly when `sqrtP` gives one, it is not 0, and of the two roots one has the parity
asked for. -/
theorem liftFindsThePoint : Obligations.LiftFindsThePoint := by
  unfold Obligations.LiftFindsThePoint
  exact fun _ _ _ _ hpar => lift_eq_some_iff hpar

end Sys2Proof.Machine
end

section
/-! Completions that write BUF or RESULT, and what a later command reads back from BUF (R34, R37, R47, R190). -/

namespace Sys2Proof.Machine

section
variable {i : Instr} {s t : State} {bytes : List Byte}

/-- A completion that puts at most 128 bytes in BUF, with or without RESULT. -/
theorem putsBuf_complete_ok (r : Option Bool) (hwf : s.mem.wf) (hl : bytes.length ≤ 128) :
    PutsBuf s (s.complete (.ok { buf := some bytes, res := r })) bytes := by
  have hbuf (k : Nat) (hk : k < bytes.length) : isBufferByte (bufBase + k) = true :=
    isBufferByte_buf k (hk.trans_le hl)
  have hmem : (s.complete (.ok { buf := some bytes, res := r })).mem = s.mem.writeBytes bufBase bytes := by
    simp [Block.complete_ok, Block.setRegs]
  have hwithin : Within (.pencX 0) (.ok { buf := some bytes, res := r }) :=
    within_buf rfl hl (res_of_isPredicate rfl r)
  refine ⟨⟨rfl, rfl, rfl, rfl, s.sameHostSide_complete hwithin hwf, ⟨rfl, rfl, rfl⟩⟩, ⟨rfl, rfl⟩, ?_, ?_, ?_, ?_⟩
  · intro k hk
    rw [hmem]
    exact Memory.read_writeBytes bytes s.mem bufBase k hwf hbuf hk
  · intro a ha
    rw [hmem]
    exact Memory.read_writeBytes_other bytes s.mem bufBase a hwf hbuf ha
  · simp [Block.complete_ok]
  · simp [Block.complete_ok, Block.setRegs]

theorem putsBuf_of_exec_okBuf (h : exec i s = s.finish (okBuf bytes)) (hwf : s.mem.wf) (hl : bytes.length ≤ 128) :
    ∃ t, exec i s = .next t ∧ PutsBuf s t bytes ∧ t.res = s.res :=
  ⟨_, h, putsBuf_complete_ok none hwf hl, rfl⟩

theorem writesRes_of_exec_okRes {r : Bool} (h : exec i s = s.finish (okRes r)) :
    ∃ t, exec i s = .next t ∧ WritesRes s t r :=
  ⟨_, h, completes_complete_ok s _ rfl, ⟨rfl, rfl⟩, rfl, rfl, fun _ => rfl, rfl⟩

theorem PutsBuf.toNat_buflen (h : PutsBuf s t bytes) (hl : bytes.length ≤ 128) : t.buflen.toNat = bytes.length := by
  rw [h.buflen, BitVec.toNat_ofNat, Nat.mod_eq_of_lt (by omega)]

/-- A decoding command reads the bytes that the command before it put in BUF. -/
theorem PutsBuf.bufBytes_eq (h : PutsBuf s t bytes) (hl : bytes.length ≤ 128) : t.bufBytes = bytes := by
  rw [Block.bufBytes, h.toNat_buflen hl, Memory.readBytes]
  refine List.ext_getElem (by simp) fun k hk hk' => ?_
  rw [List.getElem_map, List.getElem_range]
  exact (h.written k hk').trans (List.getD_eq_getElem _ _ hk')

end

/-! ## The meanings of the encoding commands (R191 to R198) -/

section
variable (rd rs1 rs2 : Reg) (s : State)

theorem exec_pencC : exec (.pencC rs1) s = s.finish (okBuf (sec1Compressed (s.triple rs1))) := rfl

theorem exec_pencU : exec (.pencU rs1) s = s.finish (okBuf (sec1Uncompressed (s.triple rs1))) := rfl

theorem exec_pencX : exec (.pencX rs1) s = s.finish (pencXOutcome (s.triple rs1)) := rfl

theorem exec_pdec : exec (.pdec rd) s = s.finish (pdecOutcome rd (sec1Decode s.toBlock)) := rfl

theorem exec_pdecX : exec (.pdecX rd) s = s.finish (pdecOutcome rd (xonlyDecode s.toBlock)) := rfl

theorem exec_pvalid : exec (.pvalid rs1) s =
    s.finish (okRes (decide ((s.triple rs1).Z ≠ 0) && onCurve (s.triple rs1))) := rfl

theorem exec_peq : exec (.peq rs1 rs2) s = s.finish (okRes (peqF (s.triple rs1) (s.triple rs2))) := rfl

end

/-! ## Completions of a decoding command whose result is known -/

section
variable {i : Instr} {s : State} {rd : Reg} {r : Except ErrCode Triple}

theorem failsWith_of_exec_decode {c : ErrCode} (h : exec i s = s.finish (pdecOutcome rd r)) (hr : r = .error c) :
    ∃ t, exec i s = .next t ∧ FailsWith c s t := by
  subst hr
  exact failsWith_of_exec_error h

theorem writesTriple_of_exec_decode {T : Triple} (h : exec i s = s.finish (pdecOutcome rd r)) (hr : r = .ok T) :
    ∃ t, exec i s = .next t ∧ WritesTriple s t rd T := by
  subst hr
  exact writesTriple_of_exec_okTriple h

end

end Sys2Proof.Machine
end

section
/-! The byte forms of a point (R191 to R196): each encoding by the affine coordinates, each decoding case by case, and the
decoding of what was encoded (R199). -/

namespace Sys2Proof.Machine

/-! ## Encodings -/

section
variable {T : Triple} {x y : Fp}

theorem sec1Compressed_of_Z_eq_zero (h : T.Z = 0) : sec1Compressed T = List.replicate 33 0 := by
  rw [sec1Compressed, affine_of_Z_eq_zero h]

theorem sec1Uncompressed_of_Z_eq_zero (h : T.Z = 0) : sec1Uncompressed T = List.replicate 65 0 := by
  rw [sec1Uncompressed, affine_of_Z_eq_zero h]

theorem pencXOutcome_of_Z_eq_zero (h : T.Z = 0) : pencXOutcome T = .error .state := by
  rw [pencXOutcome, affine_of_Z_eq_zero h]

theorem AffineOf.sec1Compressed_eq (h : AffineOf T x y) :
    sec1Compressed T = BitVec.ofNat 8 (0x02 + y.val % 2) :: be32 x.val := by
  rw [sec1Compressed, h.affine_eq]
  rfl

theorem AffineOf.sec1Uncompressed_eq (h : AffineOf T x y) :
    sec1Uncompressed T = 0x04 :: (be32 x.val ++ be32 y.val) := by
  rw [sec1Uncompressed, h.affine_eq]

theorem AffineOf.pencXOutcome_eq (h : AffineOf T x y) :
    pencXOutcome T = .ok { buf := some (be32 x.val), res := some (decide (y.val % 2 = 1)) } := by
  rw [pencXOutcome, h.affine_eq]
  rfl

/-- The completion of PENC.X for a triple with affine coordinates. -/
theorem AffineOf.putsBuf_of_exec_pencX {rs1 : Reg} {s : State} (h : AffineOf (s.triple rs1) x y) (hwf : s.mem.wf) :
    ∃ t, exec (.pencX rs1) s = .next t ∧ PutsBuf s t (be32 x.val) ∧ t.res = decide (y.val % 2 = 1) := by
  have hexec := exec_pencX rs1 s
  rw [h.pencXOutcome_eq] at hexec
  exact ⟨_, hexec, putsBuf_complete_ok _ hwf (by simp), rfl⟩

end

/-! ## Decodings -/

theorem liftTriple_of_none {xv par : Nat} (h : lift xv par = none) : liftTriple xv par = .error .domain := by
  rw [liftTriple, h]

theorem liftTriple_of_some {xv par : Nat} {x y : Fp} (h : lift xv par = some (x, y)) :
    liftTriple xv par = .ok ⟨x, y, 1⟩ := by
  rw [liftTriple, h]
  rfl

section
variable {v : List Byte}

theorem decodeCompressed_of_zeros (h : v = List.replicate 33 0) : decodeCompressed v = .ok INF := if_pos h

theorem decodeCompressed_of_unknown (h : v ≠ List.replicate 33 0) (h2 : v.getD 0 0 ≠ 2) (h3 : v.getD 0 0 ≠ 3) :
    decodeCompressed v = .error .length :=
  (if_neg h).trans (if_neg (not_or.mpr ⟨h2, h3⟩))

theorem decodeCompressed_of_prefix (h : v ≠ List.replicate 33 0) {par : Nat} (hpar : par < 2)
    (hp : v.getD 0 0 = BitVec.ofNat 8 (2 + par)) : decodeCompressed v = liftTriple (os2ip (v.drop 1)) par := by
  rw [decodeCompressed, if_neg h, hp]
  match par, hpar with
  | 0, _ => rfl
  | 1, _ => rfl

theorem decodeUncompressed_of_zeros (h : v = List.replicate 65 0) : decodeUncompressed v = .ok INF := if_pos h

theorem decodeUncompressed_of_unknown (h : v ≠ List.replicate 65 0) (h4 : v.getD 0 0 ≠ 4) :
    decodeUncompressed v = .error .length :=
  (if_neg h).trans (if_neg h4)

section
variable (h : v ≠ List.replicate 65 0) (h4 : v.getD 0 0 = 4)
include h h4

theorem decodeUncompressed_of_ge (hge : p ≤ os2ip ((v.drop 1).take 32) ∨ p ≤ os2ip (v.drop 33)) :
    decodeUncompressed v = .error .domain :=
  (if_neg h).trans ((if_pos h4).trans (if_pos hge))

theorem decodeUncompressed_of_coordinates {x y : Fp} (hx : x.val = os2ip ((v.drop 1).take 32))
    (hy : y.val = os2ip (v.drop 33)) : decodeUncompressed v = .ok ⟨x, y, 1⟩ := by
  have hlt : ¬(p ≤ os2ip ((v.drop 1).take 32) ∨ p ≤ os2ip (v.drop 33)) := by
    rw [← hx, ← hy, not_or]
    exact ⟨Nat.not_le.mpr x.isLt, Nat.not_le.mpr y.isLt⟩
  rw [decodeUncompressed, if_neg h, if_pos h4, if_neg hlt, ← hx, ← hy, toFp_val, toFp_val]

end

end

/-! ## The choice by length (R194) -/

section
variable {b : Block}

theorem sec1Decode_of_tooLong (h : 128 < b.buflen.toNat) : sec1Decode b = .error .size :=
  if_pos (decide_eq_true h)

theorem xonlyDecode_of_tooLong (h : 128 < b.buflen.toNat) : xonlyDecode b = .error .size :=
  if_pos (decide_eq_true h)

section
variable (h : b.buflen.toNat ≤ 128)
include h

theorem not_bufTooLong : ¬b.bufTooLong = true := fun hl => Nat.not_lt.mpr h (of_decide_eq_true hl)

theorem sec1Decode_of_other (h33 : b.buflen.toNat ≠ 33) (h65 : b.buflen.toNat ≠ 65) :
    sec1Decode b = .error .length := by
  rw [sec1Decode, if_neg (not_bufTooLong h), if_neg fun e => h33 (by rw [e]; rfl),
    if_neg fun e => h65 (by rw [e]; rfl)]

theorem xonlyDecode_of_other (h32 : b.buflen.toNat ≠ 32) : xonlyDecode b = .error .length := by
  rw [xonlyDecode, if_neg (not_bufTooLong h), if_pos fun e => h32 (by rw [e]; rfl)]

end

theorem sec1Decode_of_33 (h : b.buflen.toNat = 33) : sec1Decode b = decodeCompressed b.bufBytes := by
  have hb : b.buflen = 33 := BitVec.eq_of_toNat_eq h
  rw [sec1Decode, if_neg (not_bufTooLong (by omega)), if_pos hb]

theorem sec1Decode_of_65 (h : b.buflen.toNat = 65) : sec1Decode b = decodeUncompressed b.bufBytes := by
  have hb : b.buflen = 65 := BitVec.eq_of_toNat_eq h
  rw [sec1Decode, if_neg (not_bufTooLong (by omega)), if_neg (by rw [hb]; decide), if_pos hb]

theorem xonlyDecode_of_32 (h : b.buflen.toNat = 32) : xonlyDecode b = liftTriple (os2ip b.bufBytes) 0 := by
  have hb : b.buflen = 32 := BitVec.eq_of_toNat_eq h
  rw [xonlyDecode, if_neg (not_bufTooLong (by omega)), if_neg (not_not.mpr hb)]

end

/-! ## Decoding what was encoded (R199) -/

theorem os2ip_be32_val (x : Fp) : os2ip (be32 x.val) = x.val := by
  have hp : p < 256 ^ 32 := by decide
  exact (os2ip_i2osp x.val 32).trans (Nat.mod_eq_of_lt (x.isLt.trans hp))

/-- A string whose first byte is not 0 is no sentinel (R195). -/
theorem cons_ne_replicate {b : Byte} (h : b ≠ 0) (v : List Byte) (L : Nat) : b :: v ≠ List.replicate L 0 :=
  fun e => h (List.eq_of_mem_replicate (e ▸ List.mem_cons_self))

theorem decodeUncompressed_sec1Uncompressed (T : Triple) : decodeUncompressed (sec1Uncompressed T) = .ok (normal T) := by
  by_cases hz : T.Z = 0
  · rw [normal_of_Z_eq_zero hz]
    exact decodeUncompressed_of_zeros (sec1Uncompressed_of_Z_eq_zero hz)
  · obtain ⟨x, y, h⟩ := exists_affineOf hz
    have htake : (be32 x.val ++ be32 y.val).take 32 = be32 x.val := List.take_left' (length_be32 _)
    have hdrop : (be32 x.val ++ be32 y.val).drop 32 = be32 y.val := List.drop_left' (length_be32 _)
    rw [h.sec1Uncompressed_eq, h.normal_eq]
    refine decodeUncompressed_of_coordinates (cons_ne_replicate (by decide) _ _) rfl ?_ ?_
    · rw [List.drop_succ_cons, List.drop_zero, htake, os2ip_be32_val]
    · rw [List.drop_succ_cons, hdrop, os2ip_be32_val]

theorem decodeCompressed_sec1Compressed {T : Triple} (hon : OnCurveOrInf T) :
    decodeCompressed (sec1Compressed T) = .ok (normal T) := by
  by_cases hz : T.Z = 0
  · rw [normal_of_Z_eq_zero hz]
    exact decodeCompressed_of_zeros (sec1Compressed_of_Z_eq_zero hz)
  · obtain ⟨x, y, h⟩ := exists_affineOf hz
    have hpar : y.val % 2 < 2 := Nat.mod_lt _ (by decide)
    have hprefix : BitVec.ofNat 8 (2 + y.val % 2) ≠ 0 := by
      obtain h0 | h1 := Nat.mod_two_eq_zero_or_one y.val
      · rw [h0]; decide
      · rw [h1]; decide
    have hlift : lift (os2ip (be32 x.val)) (y.val % 2) = some (x, y) := by
      rw [os2ip_be32_val]
      exact (lift_eq_some_iff hpar).mpr ⟨rfl, h.equation hon, rfl⟩
    rw [h.sec1Compressed_eq, h.normal_eq, decodeCompressed_of_prefix (cons_ne_replicate hprefix _ _) hpar rfl]
    exact liftTriple_of_some hlift

theorem val_neg_even {y : Fp} (hy : y.val % 2 = 1) : (-y).val % 2 = 0 := by
  have hne : y ≠ 0 := by
    rintro rfl
    exact absurd hy (by decide)
  have h : (-y).val % 2 = 1 - y.val % 2 := sgn0_neg hne
  omega

/-- The x-only form stands for the point with the even y: an even point itself, or the negation of an odd one (R196). -/
theorem liftTriple_be32_val {T : Triple} {x y : Fp} (h : AffineOf T x y) (hon : OnCurveOrInf T) :
    liftTriple (os2ip (be32 x.val)) 0 = .ok (normal (if y.val % 2 = 0 then T else pnegF T)) := by
  have heq := h.equation hon
  rw [os2ip_be32_val]
  split
  · next heven =>
    rw [h.normal_eq]
    exact liftTriple_of_some ((lift_eq_some_iff (by decide)).mpr ⟨rfl, heq, heven⟩)
  · next hodd =>
    rw [h.neg.normal_eq]
    exact liftTriple_of_some
      ((lift_eq_some_iff (by decide)).mpr ⟨rfl, (sqr_neg y).trans heq, val_neg_even (by omega)⟩)

/-- PDEC after a command that put bytes in BUF decodes those bytes. -/
theorem exec_pdec_after_okBuf {i : Instr} {s : State} {bytes : List Byte} {T : Triple} (rd : Reg)
    (h : exec i s = s.finish (okBuf bytes)) (hwf : s.mem.wf) (hl : bytes.length ≤ 128)
    (hdec : ∀ b : Block, b.buflen.toNat = bytes.length → b.bufBytes = bytes → sec1Decode b = .ok T) :
    ∃ t u, exec i s = .next t ∧ exec (.pdec rd) t = .next u ∧ WritesTriple t u rd T := by
  obtain ⟨t, ht, hput, -⟩ := putsBuf_of_exec_okBuf h hwf hl
  obtain ⟨u, hu, hw⟩ :=
    writesTriple_of_exec_decode (exec_pdec rd t) (hdec _ (hput.toNat_buflen hl) (hput.bufBytes_eq hl))
  exact ⟨t, u, ht, hu, hw⟩

end Sys2Proof.Machine
end

section
/-! The statements on PENC, PDEC, PVALID and PEQ (44_point_encoding.md). -/

namespace Sys2Proof.Machine

/-- Settles O26: the two cases of Z for the encodings of R191 and R192, put in BUF by one completion. -/
theorem pencWritesSec1 : Obligations.PencWritesSec1 := by
  unfold Obligations.PencWritesSec1
  intro rs1 s hwf
  have hC := exec_pencC rs1 s
  have hU := exec_pencU rs1 s
  refine ⟨encodedAs_of_encode (pack_eq_cmdWord 0x40 0 0 rs1 0 0),
    encodedAs_of_encode (pack_eq_cmdWord 0x40 1 0 rs1 0 0), fun hz => ?_, fun hz => ?_⟩
  · rw [sec1Compressed_of_Z_eq_zero hz] at hC
    rw [sec1Uncompressed_of_Z_eq_zero hz] at hU
    exact ⟨putsBuf_of_exec_okBuf hC hwf (by simp), putsBuf_of_exec_okBuf hU hwf (by simp)⟩
  · obtain ⟨x, y, h⟩ := exists_affineOf hz
    rw [h.sec1Compressed_eq] at hC
    rw [h.sec1Uncompressed_eq] at hU
    exact ⟨x, y, h, putsBuf_of_exec_okBuf hC hwf (by simp), putsBuf_of_exec_okBuf hU hwf (by simp)⟩

/-- Settles O27: the two cases of Z for the outcome of R193. -/
theorem pencXWritesXOnly : Obligations.PencXWritesXOnly := by
  unfold Obligations.PencXWritesXOnly
  intro rs1 s hwf
  refine ⟨encodedAs_of_encode (pack_eq_cmdWord 0x40 2 0 rs1 0 0), fun hz => ?_, fun hz => ?_⟩
  · have hexec := exec_pencX rs1 s
    rw [pencXOutcome_of_Z_eq_zero hz] at hexec
    exact failsWith_of_exec_error hexec
  · obtain ⟨x, y, h⟩ := exists_affineOf hz
    obtain ⟨t, ht⟩ := h.putsBuf_of_exec_pencX hwf
    exact ⟨x, y, t, h, ht⟩

/-- Settles O29: the length selects the decoder (R194), and its cases are those of R195 and R196. -/
theorem pdecDecodes : Obligations.PdecDecodes := by
  unfold Obligations.PdecDecodes
  rintro rd s L b rfl hb
  have hbytes : s.bufBytes = b := hb.symm
  have hdec := exec_pdec rd s
  have hdecX := exec_pdecX rd s
  have hcompressed (hL : s.buflen.toNat = 33) : sec1Decode s.toBlock = decodeCompressed b :=
    hbytes ▸ sec1Decode_of_33 hL
  have huncompressed (hL : s.buflen.toNat = 65) : sec1Decode s.toBlock = decodeUncompressed b :=
    hbytes ▸ sec1Decode_of_65 hL
  have hxonly (hL : s.buflen.toNat = 32) : xonlyDecode s.toBlock = liftTriple (os2ip b) 0 :=
    hbytes ▸ xonlyDecode_of_32 hL
  refine ⟨encodedAs_of_encode (pack_eq_cmdWord 0x41 0 rd 0 0 0), encodedAs_of_encode (pack_eq_cmdWord 0x41 1 rd 0 0 0),
    ?size, ?length, ?sentinel, ?compressed, ?uncompressed, ?lengthX, ?xonly⟩
  case size =>
    rintro hL i (rfl | rfl)
    · exact failsWith_of_exec_decode hdec (sec1Decode_of_tooLong hL)
    · exact failsWith_of_exec_decode hdecX (xonlyDecode_of_tooLong hL)
  case length =>
    exact fun hL h33 h65 => failsWith_of_exec_decode hdec (sec1Decode_of_other hL h33 h65)
  case sentinel =>
    rintro (hL | hL) h0
    · rw [hL] at h0
      exact writesTriple_of_exec_decode hdec ((hcompressed hL).trans (decodeCompressed_of_zeros h0))
    · rw [hL] at h0
      exact writesTriple_of_exec_decode hdec ((huncompressed hL).trans (decodeUncompressed_of_zeros h0))
  case compressed =>
    refine fun hL hne => ⟨fun h2 h3 => ?_, fun par hpre hpar => ?_⟩
    · exact failsWith_of_exec_decode hdec ((hcompressed hL).trans (decodeCompressed_of_unknown hne h2 h3))
    · have hlift := (hcompressed hL).trans (decodeCompressed_of_prefix hne hpar hpre)
      exact ⟨fun hnone => failsWith_of_exec_decode hdec (hlift.trans (liftTriple_of_none hnone)),
        fun x y hsome => writesTriple_of_exec_decode hdec (hlift.trans (liftTriple_of_some hsome))⟩
  case uncompressed =>
    refine fun hL hne => ⟨fun h4 => ?_, fun h4 => ⟨fun hge => ?_, fun x y hx hy => ?_⟩⟩
    · exact failsWith_of_exec_decode hdec ((huncompressed hL).trans (decodeUncompressed_of_unknown hne h4))
    · exact failsWith_of_exec_decode hdec ((huncompressed hL).trans (decodeUncompressed_of_ge hne h4 hge))
    · exact writesTriple_of_exec_decode hdec
        ((huncompressed hL).trans (decodeUncompressed_of_coordinates hne h4 hx hy))
  case lengthX =>
    exact fun hL h32 => failsWith_of_exec_decode hdecX (xonlyDecode_of_other hL h32)
  case xonly =>
    refine fun hL => ⟨fun hnone => ?_, fun x y hsome => ?_⟩
    · exact failsWith_of_exec_decode hdecX ((hxonly hL).trans (liftTriple_of_none hnone))
    · exact writesTriple_of_exec_decode hdecX ((hxonly hL).trans (liftTriple_of_some hsome))

/-- Settles O30: the model's curve test is the rule's, and the cross products compare affine coordinates. -/
theorem pvalidAndPeqTest : Obligations.PvalidAndPeqTest := by
  unfold Obligations.PvalidAndPeqTest
  rintro rs1 rs2 s A B rfl rfl
  refine ⟨encodedAs_of_encode (pack_eq_cmdWord 0x42 0 0 rs1 0 0),
    encodedAs_of_encode (pack_eq_cmdWord 0x43 0 0 rs1 rs2 0), ?_, ?_⟩
  · have hexec := exec_pvalid rs1 s
    rw [Z_ne_zero_and_onCurve] at hexec
    exact writesRes_of_exec_okRes hexec
  · obtain ⟨t, ht, hw⟩ := writesRes_of_exec_okRes (exec_peq rs1 rs2 s)
    exact ⟨_, t, ht, hw, peqF_of_both_Z_eq_zero, peqF_of_left_Z_eq_zero, peqF_of_right_Z_eq_zero,
      fun hA hB => ⟨peqF_iff_same hA hB, peqF_iff_affineOf hA hB⟩⟩

/-- Settles O31: the decoder reads the bytes that the encoder put in BUF, and decodes them to the affine form; an odd point's
x-only bytes are those of its negation, which is even. -/
theorem encodingsRoundTrip : Obligations.EncodingsRoundTrip := by
  unfold Obligations.EncodingsRoundTrip
  intro rd rs1 s hwf
  refine ⟨?_, fun hon => ?_, fun hon hz => ?_⟩
  · refine exec_pdec_after_okBuf rd (exec_pencU rs1 s) hwf (by simp) fun b hlen hbytes => ?_
    rw [sec1Decode_of_65 (hlen.trans (length_sec1Uncompressed _)), hbytes, decodeUncompressed_sec1Uncompressed]
  · refine exec_pdec_after_okBuf rd (exec_pencC rs1 s) hwf (by simp) fun b hlen hbytes => ?_
    rw [sec1Decode_of_33 (hlen.trans (length_sec1Compressed _)), hbytes, decodeCompressed_sec1Compressed hon]
  · obtain ⟨x, y, h⟩ := exists_affineOf hz
    obtain ⟨t, ht, hput, hres⟩ := h.putsBuf_of_exec_pencX hwf
    have hl : (be32 x.val).length ≤ 128 := by simp
    have hdec := xonlyDecode_of_32 ((hput.toNat_buflen hl).trans (length_be32 _))
    rw [hput.bufBytes_eq hl, liftTriple_be32_val h hon] at hdec
    obtain ⟨u, hu, hw⟩ := writesTriple_of_exec_decode (exec_pdecX rd t) hdec
    refine ⟨x, y, t, u, h, ht, hu, fun heven => ⟨by simp [hres, heven], ?_⟩, fun hodd => ⟨by simp [hres, hodd], ?_⟩⟩
    · rwa [if_pos heven] at hw
    · rwa [if_neg (by omega)] at hw

end Sys2Proof.Machine
end

section
/-! Points of E and the model's affine results (R16): an affine result holds the coordinates of the point that its
triple denotes, and the multiples of G follow the scalars mod n (R48, R49). -/

namespace Sys2Proof.Machine

/-! ## Affine results -/

theorem val_toZ (a : Fp) : (toZ a).val = a.val := ZMod.val_cast_of_lt a.isLt

theorem exists_toZ_eq (a : ZMod p) : ∃ b : Fp, toZ b = a :=
  ⟨toFp a.val, (toZ_toFp _).trans (ZMod.natCast_zmod_val a)⟩

theorem normalised_Z_ne_zero (x y : Fp) : (⟨x, y, 1⟩ : Triple).Z ≠ 0 := show (1 : Fp) ≠ 0 by decide

theorem ofAffine_some (P : Fp × Fp) : ofAffine (some P) = ⟨P.1, P.2, 1⟩ := rfl

/-- A triple with Z = 1 has its own X and Y as affine coordinates. -/
theorem affineOf_normalised (x y : Fp) : AffineOf ⟨x, y, 1⟩ x y :=
  affineOf_iff.mpr ⟨normalised_Z_ne_zero x y, by simp, by simp⟩

section
variable {T : Triple} {P : secp.Point} {x y : Fp}

theorem affine_eq_some_iff : affine T = some (x, y) ↔ AffineOf T x y := by
  refine ⟨fun h => ?_, AffineOf.affine_eq⟩
  by_cases hz : T.Z = 0
  · rw [affine_of_Z_eq_zero hz] at h
    cases h
  · obtain ⟨x', y', hT⟩ := exists_affineOf hz
    cases hT.affine_eq.symm.trans h
    exact hT

theorem Denotes.affine_eq_none (h : Denotes T P) (hP : P = 0) : affine T = none :=
  affine_of_Z_eq_zero (h.eq_zero_iff.mp hP)

theorem denotes_normalised_neg (h : Denotes ⟨x, y, 1⟩ P) : Denotes ⟨x, -y, 1⟩ (-P) :=
  pnegF_of_Z_ne_zero (normalised_Z_ne_zero x y) ▸ denotes_pnegF h

variable [Fact (Nat.Prime p)]

/-- The affine coordinates of a triple are those of the point that it denotes. -/
theorem Denotes.affineOf_iff (h : Denotes T P) : AffineOf T x y ↔ ∃ hns, P = .some (toZ x) (toZ y) hns := by
  rw [Machine.affineOf_iff]
  obtain ⟨hz, rfl⟩ | ⟨hz, x', y', hns, rfl, hX, hY⟩ := h
  · exact ⟨fun hT => absurd hz hT.1, fun ⟨hns, hP⟩ => absurd hP.symm (WeierstrassCurve.Affine.Point.some_ne_zero hns)⟩
  · have hZ : toZ T.Z ≠ 0 := (toZ_ne_zero _).mpr hz
    rw [hX, hY, mul_left_inj' (pow_ne_zero 2 hZ), mul_left_inj' (pow_ne_zero 3 hZ)]
    constructor
    · rintro ⟨-, rfl, rfl⟩
      exact ⟨hns, rfl⟩
    · rintro ⟨hns', hP⟩
      cases hP
      exact ⟨hz, rfl, rfl⟩

theorem Denotes.affine_eq_some_iff (h : Denotes T P) :
    affine T = some (x, y) ↔ ∃ hns, P = .some (toZ x) (toZ y) hns :=
  Machine.affine_eq_some_iff.trans h.affineOf_iff

theorem denotes_normalised_iff : Denotes ⟨x, y, 1⟩ P ↔ ∃ hns, P = .some (toZ x) (toZ y) hns := by
  refine ⟨fun h => h.affineOf_iff.mp (affineOf_normalised x y), ?_⟩
  rintro ⟨hns, rfl⟩
  exact .inr ⟨normalised_Z_ne_zero x y, _, _, hns, rfl, by simp, by simp⟩

/-- Any triple of the point (x, y) has the affine form (x, y). -/
theorem Denotes.affine_eq (h : Denotes T P) (hxy : Denotes ⟨x, y, 1⟩ P) : affine T = some (x, y) :=
  h.affine_eq_some_iff.mpr (denotes_normalised_iff.mp hxy)

theorem Denotes.equation (h : Denotes ⟨x, y, 1⟩ P) : y * y = x * x * x + 7 :=
  (affineOf_normalised x y).equation ((onCurveOrInf_iff_exists_denotes _).mpr ⟨P, h⟩)

/-- An affine point is written with one pair of coordinates. -/
theorem Denotes.coordinates_unique {x' y' : Fp} (h : Denotes ⟨x, y, 1⟩ P) (h' : Denotes ⟨x', y', 1⟩ P) :
    (x, y) = (x', y') :=
  Option.some.inj ((affineOf_normalised x y).affine_eq.symm.trans (h.affine_eq h'))

end

/-! ## Scalars (R15) -/

theorem scalarOk_iff (v : Nat) : scalarOk v = true ↔ 1 ≤ v ∧ v ≤ n - 1 := by
  rw [scalarOk, Bool.and_eq_true, decide_eq_true_iff, decide_eq_true_iff]

theorem scalarOk_eq_false_iff (v : Nat) : scalarOk v = false ↔ ¬(1 ≤ v ∧ v ≤ n - 1) := by
  rw [← scalarOk_iff, Bool.not_eq_true]

/-- A value reduced mod n is a scalar unless it is 0. -/
theorem scalarOk_mod_n (v : Nat) (h : v % n ≠ 0) : scalarOk (v % n) = true := by
  have hlt : v % n < n := Nat.mod_lt v (by decide)
  exact (scalarOk_iff _).mpr ⟨Nat.pos_of_ne_zero h, Nat.le_sub_one_of_lt hlt⟩

theorem lt_n_of_scalarOk {v : Nat} (h : scalarOk v = true) : v < n := by
  obtain ⟨-, hle⟩ := (scalarOk_iff v).mp h
  exact Nat.lt_of_le_pred (by decide) hle

theorem scalarOk_n_sub {v : Nat} (h : scalarOk v = true) : scalarOk (n - v) = true := by
  rw [scalarOk_iff] at h ⊢
  omega

theorem invN_mul_modEq {k : Nat} (h : scalarOk k = true) : invN k * k ≡ 1 [MOD n] := by
  obtain ⟨h1, hk⟩ := (scalarOk_iff k).mp h
  rw [mul_comm]
  exact (invN_spec k h1 hk).2

theorem invN_lt {k : Nat} (h : scalarOk k = true) : invN k < n := by
  obtain ⟨h1, hk⟩ := (scalarOk_iff k).mp h
  exact (invN_spec k h1 hk).1

/-- Scalars mod n have 256 bits. -/
theorem lt_two_pow_of_lt_n {k : Nat} (h : k < n) : k < 2 ^ 256 := h.trans (by decide)

/-! ## Multiples of G -/

theorem exists_generator [Fact (Nat.Prime p)] : ∃ g : secp.Point, Denotes G g :=
  (onCurveOrInf_iff_exists_denotes G).mp onCurveOrInf_G

section
variable [Fact (Nat.Prime p)] {g : secp.Point} (hg : Denotes G g) {d : Nat}
include hg

/-- G has order n, so scalars count mod n. -/
theorem nsmul_generator_congr {a b : Nat} (h : a ≡ b [MOD n]) : a • g = b • g := by
  rw [← mod_n_nsmul_generator hg a, h, mod_n_nsmul_generator hg b]

theorem n_sub_nsmul_generator (hd : d ≤ n) : (n - d) • g = -(d • g) := by
  rw [eq_neg_iff_add_eq_zero, ← add_nsmul, Nat.sub_add_cancel hd, order_nsmul_generator hg]

theorem denotes_mulGPoint_of_scalarOk (hd : scalarOk d = true) :
    Denotes ⟨(mulGPoint d).1, (mulGPoint d).2, 1⟩ (d • g) := by
  obtain ⟨h1, hle⟩ := (scalarOk_iff d).mp hd
  exact denotes_mulGPoint hg d (lt_two_pow_of_lt_n (lt_n_of_scalarOk hd)) (nsmul_generator_ne_zero hg d h1 hle)

/-- A triple of d·G has the affine form of `mulGPoint`. -/
theorem affine_eq_mulGPoint {T : Triple} (hT : Denotes T (d • g)) (hd : scalarOk d = true) :
    affine T = some (mulGPoint d) :=
  hT.affine_eq (denotes_mulGPoint_of_scalarOk hg hd)

end

section
variable {d : Nat} (hd : scalarOk d = true)
include hd

theorem mulG_eq_some : mulG d = some (mulGPoint d) := by
  have : Fact (Nat.Prime p) := ⟨prime_p⟩
  obtain ⟨g, hg⟩ := exists_generator
  exact affine_eq_mulGPoint hg (denotes_mulPoint d (lt_two_pow_of_lt_n (lt_n_of_scalarOk hd)) hg) hd

/-- d·G lies on the curve (R16). -/
theorem mulGPoint_equation :
    (mulGPoint d).2 * (mulGPoint d).2 = (mulGPoint d).1 * (mulGPoint d).1 * (mulGPoint d).1 + 7 := by
  have : Fact (Nat.Prime p) := ⟨prime_p⟩
  obtain ⟨g, hg⟩ := exists_generator
  exact (denotes_mulGPoint_of_scalarOk hg hd).equation

theorem onCurveOrInf_mulGPoint : OnCurveOrInf ⟨(mulGPoint d).1, (mulGPoint d).2, 1⟩ := by
  have : Fact (Nat.Prime p) := ⟨prime_p⟩
  obtain ⟨g, hg⟩ := exists_generator
  exact (onCurveOrInf_iff_exists_denotes _).mpr ⟨_, denotes_mulGPoint_of_scalarOk hg hd⟩

/-- (n − d)·G is the negative of d·G. -/
theorem mulGPoint_n_sub : mulGPoint (n - d) = ((mulGPoint d).1, -(mulGPoint d).2) := by
  have : Fact (Nat.Prime p) := ⟨prime_p⟩
  obtain ⟨g, hg⟩ := exists_generator
  have hneg := denotes_normalised_neg (denotes_mulGPoint_of_scalarOk hg hd)
  rw [← n_sub_nsmul_generator hg (lt_n_of_scalarOk hd).le] at hneg
  exact (denotes_mulGPoint_of_scalarOk hg (scalarOk_n_sub hd)).coordinates_unique hneg

/-- No multiple of G has y = 0, so d·G and (n − d)·G have different parities. -/
theorem sgn0_mulGPoint_n_sub : sgn0 (mulGPoint (n - d)).2 = 1 - sgn0 (mulGPoint d).2 := by
  rw [mulGPoint_n_sub hd]
  exact sgn0_neg (ne_zero_of_sqr_eq (mulGPoint_equation hd))

/-- lift finds d·G from its x-coordinate and its parity. -/
theorem lift_mulGPoint : lift (mulGPoint d).1.val (sgn0 (mulGPoint d).2) = some (mulGPoint d) :=
  (lift_eq_some_iff (Nat.mod_lt _ (by decide))).mpr ⟨rfl, mulGPoint_equation hd, rfl⟩

end

/-! ## The secret with an even y (R222, R227) -/

theorem evenY_iff (P : Fp × Fp) : evenY P = true ↔ sgn0 P.2 = 0 := by rw [evenY, decide_eq_true_iff]

section
variable {d : Nat} (hd : scalarOk d = true)
include hd

theorem scalarOk_evenSecret : scalarOk (evenSecret d) = true := by
  unfold evenSecret
  split
  · exact hd
  · exact scalarOk_n_sub hd

theorem sgn0_mulGPoint_evenSecret : sgn0 (mulGPoint (evenSecret d)).2 = 0 := by
  unfold evenSecret
  split
  · next h => exact (evenY_iff _).mp h
  · next h =>
    have hlt : sgn0 (mulGPoint d).2 < 2 := Nat.mod_lt _ (by decide)
    rw [evenY_iff] at h
    rw [sgn0_mulGPoint_n_sub hd]
    omega

theorem mulGPoint_evenSecret_fst : (mulGPoint (evenSecret d)).1 = (mulGPoint d).1 := by
  unfold evenSecret
  split
  · rfl
  · rw [mulGPoint_n_sub hd]

/-- lift_x of the x-only key of d is the public key of d's even secret. -/
theorem liftX_mulGPoint : liftX (mulGPoint d).1.val = some (mulGPoint (evenSecret d)) := by
  rw [← mulGPoint_evenSecret_fst hd, liftX, ← sgn0_mulGPoint_evenSecret hd]
  exact lift_mulGPoint (scalarOk_evenSecret hd)

/-- d and n − d have one even secret. -/
theorem evenSecret_n_sub : evenSecret (n - d) = evenSecret d := by
  have hlt : sgn0 (mulGPoint d).2 < 2 := Nat.mod_lt _ (by decide)
  have hpar := sgn0_mulGPoint_n_sub hd
  have hle := lt_n_of_scalarOk hd
  simp only [evenSecret, evenY_iff]
  split_ifs
  · omega
  · rfl
  · omega
  · omega

end

end Sys2Proof.Machine
end

section
/-! Completions of the commands of 45_signatures.md: rejection loops over draws (R125), register writes beside RESULT,
and what a verification reads after a signing command (R210). -/

namespace Sys2Proof.Machine

/-! ## Draws (R125) -/

/-- The state with other draws waiting and another count of draws taken. -/
def State.withDraws (s : State) (ds : List Val) (k : Nat) : State := { s with entropy := ds, drawn := k }

section
variable {s t : State} {ds rej rest : List Val} {d : Val} {k : Nat} {accept : Nat → Bool} {f : Nat → EngineOutcome}

theorem drawUntil_of_accepted (hrej : ∀ r ∈ rej, accept r.toNat = false) (hd : accept d.toNat = true) :
    drawUntil accept (rej ++ d :: rest) k = (some d.toNat, rest, k) := by
  induction rej with
  | nil => rw [List.nil_append, drawUntil, if_pos hd]
  | cons r rej ih =>
    obtain ⟨hr, hrej⟩ := List.forall_mem_cons.mp hrej
    rw [List.cons_append, drawUntil, if_neg (ne_true_of_eq_false hr), ih hrej]

theorem drawUntil_of_rejected (hrej : ∀ r ∈ rej, accept r.toNat = false) :
    drawUntil accept rej k =
      (if accept (Config.draw k).toNat then some (Config.draw k).toNat else none, [], k + 1) := by
  induction rej with
  | nil => rfl
  | cons r rej ih =>
    obtain ⟨hr, hrej⟩ := List.forall_mem_cons.mp hrej
    rw [drawUntil, if_neg (ne_true_of_eq_false hr), ih hrej]

/-- Among the draws that wait, the first accepted one completes the command. -/
theorem State.finishDrawn_of_waiting (hs : s.entropy = rej ++ d :: rest) (hrej : ∀ r ∈ rej, accept r.toNat = false)
    (hd : accept d.toNat = true) :
    s.finishDrawn accept f = (s.withDraws rest s.drawn).finish (f d.toNat) := by
  rw [State.finishDrawn, hs, drawUntil_of_accepted hrej hd]
  rfl

/-- When no draw that waits is accepted, the next draw of the source completes the command if it is accepted. -/
theorem State.finishDrawn_of_source (hrej : ∀ r ∈ s.entropy, accept r.toNat = false)
    (hd : accept (Config.draw s.drawn).toNat = true) :
    s.finishDrawn accept f = (s.withDraws [] (s.drawn + 1)).finish (f (Config.draw s.drawn).toNat) := by
  rw [State.finishDrawn, drawUntil_of_rejected hrej, if_pos hd]
  rfl

theorem State.finishDrawn_of_rejected (hrej : ∀ r ∈ s.entropy, accept r.toNat = false)
    (hd : accept (Config.draw s.drawn).toNat = false) :
    s.finishDrawn accept f = .next (s.withDraws [] (s.drawn + 1)) := by
  rw [State.finishDrawn, drawUntil_of_rejected hrej, if_neg (ne_true_of_eq_false hd)]
  rfl

/-- The draws are no part of what a completion leaves alone. -/
theorem Completes.of_withDraws (h : Completes (s.withDraws ds k) t) : Completes s t :=
  ⟨h.busy, h.done, h.err, h.errcode, h.host, ⟨h.agents.script, h.agents.reply, h.agents.busyReads⟩⟩

/-- A completion after draws that puts at most 128 bytes in BUF. -/
theorem drawsBuf_complete_okBuf {bytes : List Byte} (ds : List Val) (k : Nat) (hwf : s.mem.wf)
    (hl : bytes.length ≤ 128) : DrawsBuf s ((s.withDraws ds k).complete (okBuf bytes)) bytes := by
  have h : PutsBuf (s.withDraws ds k) ((s.withDraws ds k).complete (okBuf bytes)) bytes :=
    putsBuf_complete_ok none hwf hl
  exact ⟨h.completes.of_withDraws, h.written, h.others, h.buflen, h.regs, rfl⟩

end

/-! ## Completions that write registers and RESULT -/

theorem putsReg_complete_ok (s : State) (rd : Reg) (v : Nat) (r : Bool) :
    PutsReg s (s.complete (.ok { regs := wrReg rd v, res := some r })) rd v where
  completes := completes_complete_ok s _ rfl
  draws := ⟨rfl, rfl⟩
  dest := s.reg_setRegs_one rd _
  regs j hj := s.reg_setRegs_other (wrReg rd v) j (by simpa [wrReg] using hj)
  mem _ := rfl
  buflen := rfl

theorem putsTriple_complete_ok (s : State) (rd : Reg) (T : Triple) (r : Bool) :
    PutsTriple s (s.complete (.ok { regs := wrTriple rd T, res := some r })) rd T := by
  obtain ⟨hX, hY, hZ⟩ := s.reg_setRegs_triple rd T.X.toVal T.Y.toVal T.Z.toVal
  exact ⟨completes_complete_ok s _ rfl, ⟨rfl, rfl⟩, hX, hY, hZ,
    fun j h0 h1 h2 => s.reg_setRegs_other (wrTriple rd T) j (by simpa [wrTriple] using ⟨h0, h1, h2⟩), fun _ => rfl, rfl⟩

/-- A triple that was written reads back as itself. -/
theorem PutsTriple.triple_eq {s t : State} {rd : Reg} {T : Triple} (h : PutsTriple s t rd T) : t.triple rd = T := by
  obtain ⟨hX, hY, hZ⟩ : t.reg rd = T.X.toVal ∧ t.reg (rd + 1) = T.Y.toVal ∧ t.reg (rd + 2) = T.Z.toVal :=
    ⟨h.destX, h.destY, h.destZ⟩
  simp only [Block.triple, Block.val, hX, hY, hZ, toFp_toNat_toVal]

theorem Reg.quad_eq (i : Reg) : i + 1 + 1 = i + 2 ∧ i + 1 + 2 = i + 3 ∧ i ≠ i + 1 ∧ i ≠ i + 2 ∧ i ≠ i + 3 := by
  revert i; decide

/-- The writes of a quad: one register and the triple after it (R214). -/
def wrQuad (rd : Reg) (v : Val) (T : Triple) : List (Reg × Val) :=
  [(rd, v), (rd + 1, T.X.toVal), (rd + 2, T.Y.toVal), (rd + 3, T.Z.toVal)]

theorem wrQuad_eq (rd : Reg) (v : Val) (T : Triple) : wrQuad rd v T = (rd, v) :: wrTriple (rd + 1) T := by
  obtain ⟨e2, e3, -⟩ := Reg.quad_eq rd
  rw [wrQuad, wrTriple, e2, e3]

/-- Each register of a quad reads as its write names it. -/
theorem Block.reg_setRegs_quad (b : Block) (rd : Reg) (v : Val) (T : Triple) :
    (b.setRegs (wrQuad rd v T)).reg rd = v ∧
    (b.setRegs (wrQuad rd v T)).reg (rd + 1) = T.X.toVal ∧
    (b.setRegs (wrQuad rd v T)).reg (rd + 2) = T.Y.toVal ∧
    (b.setRegs (wrQuad rd v T)).reg (rd + 3) = T.Z.toVal := by
  obtain ⟨e2, e3, h1, h2, h3⟩ := Reg.quad_eq rd
  have htriple := (b.setReg rd v).reg_setRegs_triple (rd + 1) T.X.toVal T.Y.toVal T.Z.toVal
  have hfirst := (b.setReg rd v).reg_setRegs_other [(rd + 1, T.X.toVal), (rd + 2, T.Y.toVal), (rd + 3, T.Z.toVal)] rd
    (by simp [h1, h2, h3])
  rw [e2, e3] at htriple
  exact ⟨hfirst.trans (b.reg_setReg_self rd v), htriple⟩

/-! ## Lengths (R37, R38, R283) -/

section
variable {b : Block}

theorem Block.bufTooLong_iff (b : Block) : b.bufTooLong = true ↔ 128 < b.buflen.toNat := decide_eq_true_iff

theorem Block.msgTooLong_iff (b : Block) : b.msgTooLong = true ↔ 1024 < b.msglen.toNat := decide_eq_true_iff

theorem Block.bufBytes_of_buflen {L : Nat} (h : b.buflen.toNat = L) :
    b.bufBytes = (List.range L).map fun k => b.mem.read (0x100 + k) := by
  subst h
  rfl

theorem buflen_ne_of_toNat_ne {b : Block} {L : BitVec 8} (h : b.buflen.toNat ≠ L.toNat) : b.buflen ≠ L :=
  fun e => h (congrArg _ e)

end

/-! ## After a command that put bytes in BUF -/

section
variable {i : Instr} {s t : State} {bytes : List Byte}

/-- A signing command leaves the message alone. -/
theorem PutsBuf.msgBytes_eq (h : PutsBuf s t bytes) : t.msgBytes = s.msgBytes := by
  obtain ⟨hmem, hlen, -⟩ := h.completes.host
  rw [Block.msgBytes, Block.msgBytes, hlen]
  refine List.map_congr_left fun k _ => hmem _ ?_
  simp only [msgBase]
  omega

/-- RECOVER leaves BUF alone. -/
theorem PutsTriple.bufBytes_eq {rd : Reg} {T : Triple} (h : PutsTriple s t rd T) : t.bufBytes = s.bufBytes := by
  rw [Block.bufBytes, Block.bufBytes, h.buflen]
  exact List.map_congr_left fun k _ => h.mem _

theorem err_of_exec_error {c : ErrCode} (h : exec i s = s.finish (.error c)) (ht : exec i s = .next t) :
    t.err = true := by
  cases Host.Outcome.next.inj (ht.symm.trans h)
  rfl

theorem signOutcome_ok (sig : List Byte) : signOutcome (.ok sig) = okBuf sig := rfl

/-- A signing command that raised no error put a signature in BUF. -/
theorem exists_signature_of_exec {r : Except ErrCode (List Byte)} {L : Nat} (h : exec i s = s.finish (signOutcome r))
    (hr : SignsWithLength L r) (hL : L ≤ 128) (hwf : s.mem.wf) (ht : exec i s = .next t) (herr : t.err = false) :
    ∃ sig, r = .ok sig ∧ sig.length = L ∧ PutsBuf s t sig := by
  cases r with
  | error c => exact absurd (err_of_exec_error h ht) (ne_true_of_eq_false herr)
  | ok sig =>
    have hlen := hr sig rfl
    cases Host.Outcome.next.inj (ht.symm.trans h)
    exact ⟨sig, rfl, hlen, putsBuf_complete_ok none hwf (hlen.trans_le hL)⟩

end

end Sys2Proof.Machine
end

section
/-! The values of recoverable ECDSA (R215 to R221): the checks of signing and of recovery, the recovered key as a point of
E, and the recovery of the signer's key from a signature (R220). -/

namespace Sys2Proof.Machine

/-! ## Signing (R215) -/

section
variable {d z k : Nat}

theorem nonceOk_iff : nonceOk d z k = true ↔ 1 ≤ k ∧ k ≤ n - 1 ∧ ecdsaR k ≠ 0 ∧ ecdsaS d z k ≠ 0 := by
  rw [nonceOk, Bool.and_eq_true, Bool.and_eq_true, scalarOk_iff, bne_iff_ne, bne_iff_ne, and_assoc, and_assoc]

/-- With a secret and a nonce that pass the checks, ecdsa_core signs, and `ECDSA_LOW_S` is false (R8). -/
theorem ecdsaCore_of_accepted (hd : scalarOk d = true) (hk : nonceOk d z k = true) :
    ecdsaCore Config.ecdsaLowS d z k = .ok (ecdsaWire (ecdsaR k) (ecdsaS d z k) (ecdsaRecid k)) := by
  obtain ⟨h1, hle, hr, hs⟩ := nonceOk_iff.mp hk
  have hk : scalarOk k = true := (scalarOk_iff k).mpr ⟨h1, hle⟩
  rw [ecdsaCore, if_neg (by rw [hd]; decide), if_neg (by rw [hk]; decide), if_neg hr, if_neg hs,
    if_neg (fun h => Bool.false_ne_true h.1)]

theorem ecdsaCore_of_rejected (h : ¬(scalarOk d = true ∧ nonceOk d z k = true)) :
    ecdsaCore Config.ecdsaLowS d z k = .error .domain := by
  rw [nonceOk_iff] at h
  unfold ecdsaCore
  split
  · rfl
  · next hd =>
    split
    · rfl
    · next hk =>
      rw [Bool.not_eq_true', Bool.not_eq_false] at hd hk
      obtain ⟨h1, hle⟩ := (scalarOk_iff k).mp hk
      split
      · rfl
      · next hr =>
        have hs : ecdsaS d z k = 0 := by_contra fun hs => h ⟨hd, h1, hle, hr, hs⟩
        rw [if_pos hs]

/-- Only a secret and a nonce that pass the checks give a signature. -/
theorem accepted_of_ecdsaCore_ok {sig : List Byte} (h : ecdsaCore Config.ecdsaLowS d z k = .ok sig) :
    scalarOk d = true ∧ nonceOk d z k = true := by
  by_contra hno
  rw [ecdsaCore_of_rejected hno] at h
  cases h

end

/-! ## Recovery (R218) -/

theorem os2ip_be32 {v : Nat} (h : v < 2 ^ 256) : os2ip (be32 v) = v :=
  (os2ip_i2osp v 32).trans (Nat.mod_eq_of_lt (h.trans_eq (by decide)))

section
variable {z r v id : Nat} {sig : List Byte} (hr : r = os2ip (sig.take 32)) (hv : v = os2ip ((sig.drop 32).take 32))
  (hid : id = (sig.getD 64 0).toNat)
include hr hv hid

/-- recover of R218: the checks, the lift of the nonce's point, and the key. An x of p or above has no lift. -/
theorem ecdsaRecover_eq : ecdsaRecover z sig =
    if 3 < id ∨ scalarOk r = false ∨ scalarOk v = false then none
    else (lift (r + n * (id / 2)) (id % 2)).bind fun R => recoverPoint z r v (ofAffine (some R)) := by
  subst hr hv hid
  simp only [ecdsaRecover, Nat.shiftRight_one, Nat.and_one_is_mod]
  refine if_congr Iff.rfl rfl ?_
  split
  · next hp => rw [lift_of_ge _ hp]; rfl
  · cases lift _ _ <;> rfl

theorem ecdsaRecover_of_failing (h : 3 < id ∨ ¬(1 ≤ r ∧ r ≤ n - 1) ∨ ¬(1 ≤ v ∧ v ≤ n - 1) ∨ p ≤ r + n * (id / 2) ∨
    lift (r + n * (id / 2)) (id % 2) = none) : ecdsaRecover z sig = none := by
  rw [← scalarOk_eq_false_iff, ← scalarOk_eq_false_iff] at h
  rw [ecdsaRecover_eq hr hv hid]
  split
  · rfl
  · next hok =>
    rw [not_or, not_or] at hok
    obtain ⟨hid, hr, hv⟩ := hok
    have hlift : lift (r + n * (id / 2)) (id % 2) = none :=
      (((h.resolve_left hid).resolve_left hr).resolve_left hv).elim (lift_of_ge _) fun h => h
    rw [hlift, Option.bind_none]

theorem ecdsaRecover_of_lift {R : Fp × Fp} (h3 : id ≤ 3) (hrok : scalarOk r = true) (hvok : scalarOk v = true)
    (hlift : lift (r + n * (id / 2)) (id % 2) = some R) :
    ecdsaRecover z sig = recoverPoint z r v (ofAffine (some R)) := by
  rw [ecdsaRecover_eq hr hv hid, if_neg (by simp [h3, hrok, hvok]), hlift, Option.bind_some]

end

section
variable [Fact (Nat.Prime p)] {g : secp.Point} (hg : Denotes G g) {d z k r v : Nat}
include hg

/-- The triple that R218 computes denotes r⁻¹·(s·R − (z mod n)·G). -/
theorem denotes_recovered {T : Triple} {R : secp.Point} (hT : Denotes T R) (hr : scalarOk r = true)
    (hv : scalarOk v = true) :
    Denotes (mulPoint (invN r) (psubF (mulPoint v T) (mulPoint (z % n) G)))
      (invN r • (v • R - (z % n) • g)) := by
  have hz : z % n < n := Nat.mod_lt z (by decide)
  refine denotes_mulPoint _ (lt_two_pow_of_lt_n (invN_lt hr)) ?_
  rw [sub_eq_add_neg]
  exact denotes_paddF (denotes_mulPoint v (lt_two_pow_of_lt_n (lt_n_of_scalarOk hv)) hT)
    (denotes_pnegF (denotes_mulPoint _ (lt_two_pow_of_lt_n hz) hg))

/-- s·k = z + r·d mod n, so recovery with the nonce's point gives the public key (R220). -/
theorem recovered_eq_public (hk : scalarOk k = true) (hr : scalarOk (ecdsaR k) = true) :
    invN (ecdsaR k) • (ecdsaS d z k • k • g - (z % n) • g) = d • g := by
  have hs : ecdsaS d z k * k ≡ z + ecdsaR k * d [MOD n] :=
    calc ecdsaS d z k * k ≡ invN k * (z + ecdsaR k * d) * k [MOD n] := (Nat.mod_modEq _ n).mul_right k
      _ = invN k * k * (z + ecdsaR k * d) := by ring
      _ ≡ 1 * (z + ecdsaR k * d) [MOD n] := (invN_mul_modEq hk).mul_right _
      _ = z + ecdsaR k * d := one_mul _
  have hr : invN (ecdsaR k) * (ecdsaR k * d) ≡ d [MOD n] :=
    calc invN (ecdsaR k) * (ecdsaR k * d) = invN (ecdsaR k) * ecdsaR k * d := (mul_assoc ..).symm
      _ ≡ 1 * d [MOD n] := (invN_mul_modEq hr).mul_right d
      _ = d := one_mul d
  rw [← mul_nsmul', nsmul_generator_congr hg hs, mod_n_nsmul_generator hg, add_nsmul, add_sub_cancel_left,
    ← mul_nsmul', nsmul_generator_congr hg hr]

end

/-! ## The wire format (R221) -/

section
variable {r v id : Nat}

theorem length_ecdsaWire : (ecdsaWire r v id).length = 65 := by simp [ecdsaWire]

theorem take_ecdsaWire : (ecdsaWire r v id).take 32 = be32 r := by
  rw [ecdsaWire, List.append_assoc]
  exact List.take_left' (length_be32 r)

theorem drop_ecdsaWire : ((ecdsaWire r v id).drop 32).take 32 = be32 v := by
  rw [ecdsaWire, List.append_assoc, List.drop_left' (length_be32 r)]
  exact List.take_left' (length_be32 v)

theorem getD_ecdsaWire : (ecdsaWire r v id).getD 64 0 = BitVec.ofNat 8 id := by
  rw [ecdsaWire, List.getD_append_right _ _ _ _ (by simp)]
  simp

end

/-- The recovery id's high bit tells whether r = x or r = x − n; p < 2n leaves no third case (R215). -/
theorem ecdsaR_add_recid (k : Nat) : ecdsaR k + n * (ecdsaRecid k / 2) = (mulGPoint k).1.val := by
  have hlt : (mulGPoint k).1.val < p := (mulGPoint k).1.isLt
  have hp : p < n + n := by decide
  have hpar : sgn0 (mulGPoint k).2 < 2 := Nat.mod_lt _ (by decide)
  have hhigh : ecdsaRecid k / 2 = if n ≤ (mulGPoint k).1.val then 1 else 0 := by
    rw [ecdsaRecid]
    omega
  rw [hhigh, ecdsaR]
  split
  · next h =>
    have hsub : (mulGPoint k).1.val - n < n := by omega
    rw [Nat.mod_eq_sub_mod h, Nat.mod_eq_of_lt hsub, mul_one, Nat.sub_add_cancel h]
  · next h => rw [Nat.mod_eq_of_lt (Nat.not_le.mp h), mul_zero, add_zero]

theorem ecdsaRecid_le (k : Nat) : ecdsaRecid k ≤ 3 := by
  have hpar : sgn0 (mulGPoint k).2 < 2 := Nat.mod_lt _ (by decide)
  rw [ecdsaRecid]
  split <;> omega

theorem ecdsaRecid_mod_two (k : Nat) : ecdsaRecid k % 2 = sgn0 (mulGPoint k).2 := by
  have hpar : sgn0 (mulGPoint k).2 < 2 := Nat.mod_lt _ (by decide)
  rw [ecdsaRecid]
  omega

/-- R220: the signature of an accepted secret and nonce recovers to d·G. -/
theorem ecdsaRecover_ecdsaWire {d z k : Nat} (hd : scalarOk d = true) (hk : nonceOk d z k = true) :
    ecdsaRecover z (ecdsaWire (ecdsaR k) (ecdsaS d z k) (ecdsaRecid k)) = some (mulGPoint d) := by
  have : Fact (Nat.Prime p) := ⟨prime_p⟩
  obtain ⟨g, hg⟩ := exists_generator
  obtain ⟨h1, hle, hr, hs⟩ := nonceOk_iff.mp hk
  have hk : scalarOk k = true := (scalarOk_iff k).mpr ⟨h1, hle⟩
  have hr : scalarOk (ecdsaR k) = true := scalarOk_mod_n _ hr
  have hs : scalarOk (ecdsaS d z k) = true := scalarOk_mod_n _ hs
  have hid : (BitVec.ofNat 8 (ecdsaRecid k)).toNat = ecdsaRecid k :=
    Nat.mod_eq_of_lt ((ecdsaRecid_le k).trans_lt (by decide))
  have hlift : lift (ecdsaR k + n * (ecdsaRecid k / 2)) (ecdsaRecid k % 2) = some (mulGPoint k) := by
    rw [ecdsaR_add_recid, ecdsaRecid_mod_two, lift_mulGPoint hk]
  have hkey := denotes_recovered hg (z := z) (denotes_mulGPoint_of_scalarOk hg hk) hr hs
  rw [recovered_eq_public hg hk hr] at hkey
  refine (ecdsaRecover_of_lift ?_ ?_ ?_ (ecdsaRecid_le k) hr hs hlift).trans (affine_eq_mulGPoint hg hkey hd)
  · rw [take_ecdsaWire, os2ip_be32 (lt_two_pow_of_lt_n (lt_n_of_scalarOk hr))]
  · rw [drop_ecdsaWire, os2ip_be32 (lt_two_pow_of_lt_n (lt_n_of_scalarOk hs))]
  · rw [getD_ecdsaWire, hid]

/-! ## Outcomes (R218, R219) -/

section
variable {b : Block} {z : Nat} {Q : Triple} {rd : Reg}

theorem recoverOutcome_of_tooLong (h : 128 < b.buflen.toNat) : recoverOutcome rd z b = .error .size :=
  if_pos (b.bufTooLong_iff.mpr h)

theorem recoverOutcome_of_other (h : b.buflen.toNat ≤ 128) (h65 : b.buflen.toNat ≠ 65) :
    recoverOutcome rd z b = .error .length :=
  (if_neg (not_bufTooLong h)).trans (if_pos (buflen_ne_of_toNat_ne h65))

/-- The recovered key into its destination, with RESULT. -/
theorem recoverOutcome_of_65 (h : b.buflen.toNat = 65) :
    recoverOutcome rd z b = .ok { regs := wrTriple rd (ofAffine (ecdsaRecover z b.bufBytes)),
                                  res := some (ecdsaRecover z b.bufBytes).isSome } := by
  have hb : b.buflen = 65 := BitVec.eq_of_toNat_eq h
  rw [recoverOutcome, if_neg (not_bufTooLong (by omega)), if_neg (not_not.mpr hb)]
  cases ecdsaRecover z b.bufBytes <;> rfl

theorem ecdsaVerifyOutcome_of_tooLong (h : 128 < b.buflen.toNat) : ecdsaVerifyOutcome Q z b = .error .size :=
  if_pos (b.bufTooLong_iff.mpr h)

theorem ecdsaVerifyOutcome_of_other (h : b.buflen.toNat ≤ 128) (h65 : b.buflen.toNat ≠ 65) :
    ecdsaVerifyOutcome Q z b = .error .length :=
  (if_neg (not_bufTooLong h)).trans (if_pos (buflen_ne_of_toNat_ne h65))

theorem ecdsaVerifyOutcome_of_65 (h : b.buflen.toNat = 65) :
    ecdsaVerifyOutcome Q z b = okRes (ecdsaVerifies Q z b.bufBytes) := by
  have hb : b.buflen = 65 := BitVec.eq_of_toNat_eq h
  rw [ecdsaVerifyOutcome, if_neg (not_bufTooLong (by omega)), if_neg (not_not.mpr hb)]

theorem ecdsaVerifies_of_unusable {sig : List Byte} (h : Q.Z = 0 ∨ ¬OnCurveOrInf Q) :
    ecdsaVerifies Q z sig = false := by
  rw [onCurveOrInf_iff, not_or, Bool.not_eq_true] at h
  exact if_pos (h.imp_right And.right)

/-- A usable key verifies when recovery gives a key that PEQ finds equal to it. -/
theorem ecdsaVerifies_of_usable {sig : List Byte} (hz : Q.Z ≠ 0) (hon : OnCurveOrInf Q) :
    ecdsaVerifies Q z sig =
      ((ecdsaRecover z sig).isSome && peqF (ofAffine (ecdsaRecover z sig)) Q) := by
  rw [onCurveOrInf_iff, or_iff_right hz] at hon
  rw [ecdsaVerifies, if_neg (by simp [hz, hon])]
  cases ecdsaRecover z sig <;> rfl

end

end Sys2Proof.Machine
end

section
/-! The statements on KEYGEN, ECDSA.SIGN, ECDSA.SIGNR, ECDSA.RECOVER and ECDSA.VERIFY (R214 to R220). -/

namespace Sys2Proof.Machine

section
variable (rd rs1 rs2 rs3 : Reg) (s : State)

theorem exec_keygen : exec (.keygen rd) s = s.finishDrawn scalarOk (keygenOutcome rd) := rfl

theorem exec_ecdsaSign : exec (.ecdsaSign rs1 rs2 rs3) s =
    s.finish (signOutcome (ecdsaCore Config.ecdsaLowS (s.val rs1) (s.val rs2) (s.val rs3))) := rfl

theorem exec_ecdsaRecover : exec (.ecdsaRecover rd rs2) s = s.finish (recoverOutcome rd (s.val rs2) s.toBlock) := rfl

theorem exec_ecdsaVerify : exec (.ecdsaVerify rs1 rs2) s =
    s.finish (ecdsaVerifyOutcome (s.triple rs1) (s.val rs2) s.toBlock) := rfl

/-- R217: the secret is checked before any draw. -/
theorem exec_ecdsaSignR_of_bad_secret (h : scalarOk (s.val rs1) = false) :
    exec (.ecdsaSignR rs1 rs2) s = s.finish (.error .domain) :=
  if_pos (by rw [h]; rfl)

theorem exec_ecdsaSignR_of_secret (h : scalarOk (s.val rs1) = true) :
    exec (.ecdsaSignR rs1 rs2) s = s.finishDrawn (nonceOk (s.val rs1) (s.val rs2)) fun k =>
      signOutcome (ecdsaCore Config.ecdsaLowS (s.val rs1) (s.val rs2) k) :=
  if_neg (by rw [h]; decide)

end

/-! ## KEYGEN (R214) -/

/-- The writes of KEYGEN for an accepted draw: the draw and its public key, which is not ∞. -/
theorem keygenOutcome_of_scalarOk (rd : Reg) {d : Val} (hd : scalarOk d.toNat = true) :
    keygenOutcome rd d.toNat =
      .ok { regs := wrQuad rd d ⟨(mulGPoint d.toNat).1, (mulGPoint d.toNat).2, 1⟩ } := by
  rw [keygenOutcome, mulG_eq_some hd, wrQuad_eq, wrReg, BitVec.ofNat_toNat, BitVec.setWidth_eq]
  rfl

/-- Settles O32: the rejection loop stops at the first draw in [1, n − 1], whose outcome writes the key pair. -/
theorem keygenWritesKeyPair : Obligations.KeygenWritesKeyPair := by
  unfold Obligations.KeygenWritesKeyPair
  intro rd s rej hrej
  have hrej (r : Val) (hr : r ∈ rej) : scalarOk r.toNat = false := (scalarOk_eq_false_iff _).mpr (hrej r hr)
  refine ⟨encodedAs_of_encode (pack_eq_cmdWord 0x50 0 rd 0 0 0), fun d rest hs h1 hle => ?_, fun hs => ?_⟩
  · have hd : scalarOk d.toNat = true := (scalarOk_iff _).mpr ⟨h1, hle⟩
    have hexec := (exec_keygen rd s).trans (s.finishDrawn_of_waiting hs hrej hd)
    rw [keygenOutcome_of_scalarOk rd hd] at hexec
    obtain ⟨h0, hX, hY, hZ⟩ := s.reg_setRegs_quad rd d ⟨(mulGPoint d.toNat).1, (mulGPoint d.toNat).2, 1⟩
    refine ⟨_, hexec, (completes_complete_ok _ _ rfl).of_withDraws, rfl, rfl, h0, hX, hY, hZ,
      fun j h0 h1 h2 h3 => ?_, fun _ => rfl, rfl, rfl⟩
    exact s.reg_setRegs_other (wrQuad rd d _) j (by simpa [wrQuad] using ⟨h0, h1, h2, h3⟩)
  · subst hs
    cases hd : scalarOk (Config.draw s.drawn).toNat with
    | true =>
      have hexec := (exec_keygen rd s).trans (s.finishDrawn_of_source hrej hd)
      rw [keygenOutcome_of_scalarOk rd hd] at hexec
      obtain ⟨h0, -⟩ := s.reg_setRegs_quad rd (Config.draw s.drawn)
        ⟨(mulGPoint (Config.draw s.drawn).toNat).1, (mulGPoint (Config.draw s.drawn).toNat).2, 1⟩
      exact ⟨_, hexec, rfl, rfl, fun _ => ⟨(completes_complete_ok _ _ rfl).of_withDraws, h0⟩,
        fun hno => absurd ((scalarOk_iff _).mp hd) hno⟩
    | false =>
      exact ⟨_, s.finishDrawn_of_rejected hrej hd, rfl, rfl, fun hyes => absurd hyes ((scalarOk_eq_false_iff _).mp hd),
        fun _ => rfl⟩

/-! ## ECDSA.SIGN and ECDSA.SIGNR (R216, R217) -/

/-- Settles O33: the checks of ecdsa_core are those of a secret and a nonce that ECDSA.SIGNR accepts. -/
theorem ecdsaSignSigns : Obligations.EcdsaSignSigns := by
  unfold Obligations.EcdsaSignSigns
  rintro rs1 rs2 rs3 s d z k _ _ hwf hd hz hk rfl rfl
  have hexec := exec_ecdsaSign rs1 rs2 rs3 s
  simp only [Block.val, hd, hz, hk] at hexec
  refine ⟨encodedAs_of_encode (pack_eq_cmdWord 0x51 0 0 rs1 rs2 rs3), fun hbad => ?_, fun h1 hle hk1 hkle hr hv => ?_⟩
  · rw [ecdsaCore_of_rejected] at hexec
    · exact failsWith_of_exec_error hexec
    · rw [scalarOk_iff, nonceOk_iff]
      rintro ⟨hd, hk1, hkle, hr, hv⟩
      obtain hbad | hbad | hbad | hbad := hbad
      · exact hbad hd
      · exact hbad ⟨hk1, hkle⟩
      · exact hr hbad
      · exact hv hbad
  · rw [ecdsaCore_of_accepted ((scalarOk_iff _).mpr ⟨h1, hle⟩) (nonceOk_iff.mpr ⟨hk1, hkle, hr, hv⟩)] at hexec
    obtain ⟨t, ht, hput, hres⟩ := putsBuf_of_exec_okBuf hexec hwf (length_ecdsaWire.trans_le (by decide))
    exact ⟨t, ht, hres, hput⟩

/-- The completion of ECDSA.SIGNR with an accepted draw. -/
theorem drawsBuf_complete_ecdsaWire {s : State} {d z k : Nat} (ds : List Val) (m : Nat) (hd : scalarOk d = true)
    (hk : nonceOk d z k = true) (hwf : s.mem.wf) :
    DrawsBuf s ((s.withDraws ds m).complete (signOutcome (ecdsaCore Config.ecdsaLowS d z k)))
      (ecdsaWire (ecdsaR k) (ecdsaS d z k) (ecdsaRecid k)) := by
  rw [ecdsaCore_of_accepted hd hk, signOutcome_ok]
  exact drawsBuf_complete_okBuf ds m hwf (length_ecdsaWire.trans_le (by decide))

/-- Settles O34: past the check of the secret, the rejection loop stops at the first nonce that ecdsa_core accepts. -/
theorem ecdsaSignRSigns : Obligations.EcdsaSignRSigns := by
  unfold Obligations.EcdsaSignRSigns
  rintro rs1 rs2 s d z good sig hwf rfl rfl hgood hsig
  have hgood (k : Nat) : good k ↔ nonceOk (s.val rs1) (s.val rs2) k = true := (hgood k).trans nonceOk_iff.symm
  refine ⟨encodedAs_of_encode (pack_eq_cmdWord 0x51 1 0 rs1 rs2 0), fun hbad => ?_, fun h1 hle rej hrej => ?_⟩
  · exact failsWith_of_exec_error (exec_ecdsaSignR_of_bad_secret rs1 rs2 s ((scalarOk_eq_false_iff _).mpr hbad))
  · have hd : scalarOk (s.val rs1) = true := (scalarOk_iff _).mpr ⟨h1, hle⟩
    have hrej (r : Val) (hr : r ∈ rej) : nonceOk (s.val rs1) (s.val rs2) r.toNat = false :=
      Bool.not_eq_true _ ▸ (hgood _).not.mp (hrej r hr)
    have hexec := exec_ecdsaSignR_of_secret rs1 rs2 s hd
    refine ⟨fun k rest hs hk => ?_, fun hs => ?_⟩
    · have hk := (hgood _).mp hk
      rw [hsig]
      exact ⟨_, hexec.trans (s.finishDrawn_of_waiting hs hrej hk), drawsBuf_complete_ecdsaWire rest _ hd hk hwf, rfl,
        rfl⟩
    · subst hs
      rw [hgood, hsig]
      cases hk : nonceOk (s.val rs1) (s.val rs2) (Config.draw s.drawn).toNat with
      | true =>
        exact ⟨_, hexec.trans (s.finishDrawn_of_source hrej hk), rfl, rfl,
          fun _ => drawsBuf_complete_ecdsaWire [] _ hd hk hwf, fun hno => absurd rfl hno⟩
      | false =>
        exact ⟨_, hexec.trans (s.finishDrawn_of_rejected hrej hk), rfl, rfl, fun hyes => absurd hyes (by decide),
          fun _ => rfl⟩

/-! ## ECDSA.RECOVER and ECDSA.VERIFY (R218, R219) -/

/-- RECOVER with 65 bytes in BUF, in terms of recover(z, sig). -/
theorem putsTriple_of_exec_ecdsaRecover (rd rs2 : Reg) {s : State} (h : s.buflen.toNat = 65) :
    ∃ u, exec (.ecdsaRecover rd rs2) s = .next u ∧
      PutsTriple s u rd (ofAffine (ecdsaRecover (s.val rs2) s.bufBytes)) ∧
      u.res = (ecdsaRecover (s.val rs2) s.bufBytes).isSome := by
  have hexec := exec_ecdsaRecover rd rs2 s
  rw [recoverOutcome_of_65 h] at hexec
  exact ⟨_, hexec, putsTriple_complete_ok s rd _ _, rfl⟩

/-- VERIFY with 65 bytes in BUF. -/
theorem writesRes_of_exec_ecdsaVerify (rs1 rs2 : Reg) {s : State} (h : s.buflen.toNat = 65) :
    ∃ t, exec (.ecdsaVerify rs1 rs2) s = .next t ∧
      WritesRes s t (ecdsaVerifies (s.triple rs1) (s.val rs2) s.bufBytes) := by
  have hexec := exec_ecdsaVerify rs1 rs2 s
  rw [ecdsaVerifyOutcome_of_65 h] at hexec
  exact writesRes_of_exec_okRes hexec

theorem isSome_affine (T : Triple) : (affine T).isSome = decide ((normal T).Z ≠ 0) := by
  rw [normal]
  cases affine T <;> rfl

/-- Settles O35: the lengths, the checks before the lift and a failing lift give no key; past them the key is the affine
form of a triple of r⁻¹·(s·R − (z mod n)·G). -/
theorem ecdsaRecoverRecovers : Obligations.EcdsaRecoverRecovers := by
  unfold Obligations.EcdsaRecoverRecovers
  intro rd rs2 s sig r v id hsig hr hv hid
  have hexec := exec_ecdsaRecover rd rs2 s
  refine ⟨encodedAs_of_encode (pack_eq_cmdWord 0x53 0 rd 0 rs2 0), fun hL => ?_, fun hL h65 => ?_, fun h65 => ?_⟩
  · rw [recoverOutcome_of_tooLong hL] at hexec
    exact failsWith_of_exec_error hexec
  · rw [recoverOutcome_of_other hL h65] at hexec
    exact failsWith_of_exec_error hexec
  have hbytes : s.bufBytes = sig := (Block.bufBytes_of_buflen h65).trans hsig.symm
  obtain ⟨u, hu, hput, hres⟩ := putsTriple_of_exec_ecdsaRecover rd rs2 h65
  rw [hbytes] at hput hres
  refine ⟨fun hfail => ?_, ?_⟩
  · rw [ecdsaRecover_of_failing hr hv hid hfail] at hput hres
    exact ⟨u, hu, hput, hres⟩
  · intro _ x y R g h3 hr1 hrn hv1 hvn hlift hR hg
    have hrok : scalarOk r = true := (scalarOk_iff r).mpr ⟨hr1, hrn⟩
    have hvok : scalarOk v = true := (scalarOk_iff v).mpr ⟨hv1, hvn⟩
    rw [ecdsaRecover_of_lift hr hv hid h3 hrok hvok hlift, recoverPoint] at hput hres
    exact ⟨_, u, hu, hput, normalised_normal _, hres.trans (isSome_affine _),
      denotes_normal (denotes_recovered hg hR hrok hvok)⟩

/-- Settles O36: for a usable key, VERIFY's result is RESULT of RECOVER and PEQ of its destination with the key. -/
theorem ecdsaVerifyCompares : Obligations.EcdsaVerifyCompares := by
  unfold Obligations.EcdsaVerifyCompares
  rintro rd rs1 rs2 s Q rfl
  have hexec := exec_ecdsaVerify rs1 rs2 s
  refine ⟨encodedAs_of_encode (pack_eq_cmdWord 0x52 0 0 rs1 rs2 0), fun hL => ?_, fun hL h65 => ?_, fun h65 => ?_⟩
  · rw [ecdsaVerifyOutcome_of_tooLong hL] at hexec
    exact failsWith_of_exec_error hexec
  · rw [ecdsaVerifyOutcome_of_other hL h65] at hexec
    exact failsWith_of_exec_error hexec
  obtain ⟨t, ht, hw⟩ := writesRes_of_exec_ecdsaVerify rs1 rs2 h65
  refine ⟨fun hbad => ?_, fun hz hon => ?_⟩
  · rw [ecdsaVerifies_of_unusable hbad] at hw
    exact ⟨t, ht, hw⟩
  · obtain ⟨u, hu, hput, hres⟩ := putsTriple_of_exec_ecdsaRecover rd rs2 h65
    rw [ecdsaVerifies_of_usable hz hon, ← hres, ← hput.triple_eq] at hw
    exact ⟨u, t, hu, ht, hw⟩

/-! ## Signing, then recovering and verifying (R220) -/

theorem peqF_self {A : Triple} (hz : A.Z ≠ 0) : peqF A A = true := (peqF_iff_same hz hz).mpr ⟨rfl, rfl⟩

theorem ecdsaVerifies_mulGPoint {d z : Nat} {sig : List Byte} (hd : scalarOk d = true)
    (h : ecdsaRecover z sig = some (mulGPoint d)) :
    ecdsaVerifies ⟨(mulGPoint d).1, (mulGPoint d).2, 1⟩ z sig = true := by
  have hz := normalised_Z_ne_zero (mulGPoint d).1 (mulGPoint d).2
  rw [ecdsaVerifies_of_usable hz (onCurveOrInf_mulGPoint hd), h, ofAffine_some, Option.isSome_some, Bool.true_and]
  exact peqF_self hz

/-- Settles O37: RECOVER reads the signature and the hash that ECDSA.SIGN used, and leaves both to VERIFY. -/
theorem ecdsaSignThenVerify : Obligations.EcdsaSignThenVerify := by
  unfold Obligations.EcdsaSignThenVerify
  intro rd r1 r2 r3 s t _ hwf ht herr h0 h1 h2
  obtain ⟨sig, hcore, hlen, hsign⟩ := exists_signature_of_exec (exec_ecdsaSign r1 r2 r3 s)
    (signsWithLength_ecdsaCore _ _ _ _) (by decide) hwf ht herr
  obtain ⟨hd, hk⟩ := accepted_of_ecdsaCore_ok hcore
  cases (ecdsaCore_of_accepted hd hk).symm.trans hcore
  have ht65 : t.buflen.toNat = 65 := (hsign.toNat_buflen (by omega)).trans hlen
  have hbytes := hsign.bufBytes_eq (by omega)
  have hhash : t.val r2 = s.val r2 := congrArg BitVec.toNat (Block.reg_eq _ _ hsign.regs r2)
  have hrec : ecdsaRecover (t.val r2) t.bufBytes = some (mulGPoint (s.val r1)) := by
    rw [hbytes, hhash]
    exact ecdsaRecover_ecdsaWire hd hk
  obtain ⟨u, hu, hput, hres⟩ := putsTriple_of_exec_ecdsaRecover rd r2 ht65
  rw [hrec] at hput hres
  have hu65 : u.buflen.toNat = 65 := hput.buflen ▸ ht65
  have hhash' : u.val r2 = t.val r2 := congrArg BitVec.toNat (hput.regs r2 h0 h1 h2)
  obtain ⟨w, hw, hver⟩ := writesRes_of_exec_ecdsaVerify rd r2 hu65
  rw [hput.triple_eq, hput.bufBytes_eq, hhash'] at hver
  exact ⟨u, w, hu, hres, hput.triple_eq, hw, ecdsaVerifies_mulGPoint hd hrec ▸ hver⟩

end Sys2Proof.Machine
end

section
/-! The values of BIP340 (R211, R222, R224) and of the BIP341 key path (R227): signing and tweaking step by step,
verification as an equation in E, and the agreement of secret and public tweaks. -/

namespace Sys2Proof.Machine

/-! ## Signing (R222) -/

theorem evenSecret_eq (d : Nat) : evenSecret d = if (mulGPoint d).2.val % 2 = 0 then d else n - d := by
  simp only [evenSecret, evenY_iff, sgn0]

section
variable {d : Nat} {a m sig : List Byte}

theorem bip340Sign_of_bad_secret (hd : scalarOk d = false) : bip340Sign d a m = .error .domain :=
  if_pos (by rw [hd]; rfl)

theorem bip340Sign_of_scalarOk (hd : scalarOk d = true) :
    bip340Sign d a m =
      if bip340Nonce d a m = 0 then .error .domain
      else .ok (xbG (bip340Nonce d a m) ++
        be32 ((evenSecret (bip340Nonce d a m) +
          bip340Challenge (xbG (bip340Nonce d a m)) (xbG d) m * evenSecret d) % n)) :=
  if_neg (by rw [hd]; decide)

theorem eq_domain_of_bip340Sign_error {c : ErrCode} (h : bip340Sign d a m = .error c) : c = .domain := by
  cases hd : scalarOk d with
  | false =>
    rw [bip340Sign_of_bad_secret hd] at h
    exact (Except.error.inj h).symm
  | true =>
    rw [bip340Sign_of_scalarOk hd] at h
    split at h
    · exact (Except.error.inj h).symm
    · cases h

/-- The values of an accepted signing: a good secret, a nonce that is not 0, and the 64 bytes. -/
theorem bip340Sign_ok (h : bip340Sign d a m = .ok sig) :
    scalarOk d = true ∧ ∃ k, scalarOk k = true ∧
      sig = xbG k ++ be32 ((evenSecret k + bip340Challenge (xbG k) (xbG d) m * evenSecret d) % n) := by
  cases hd : scalarOk d with
  | false =>
    rw [bip340Sign_of_bad_secret hd] at h
    cases h
  | true =>
    rw [bip340Sign_of_scalarOk hd] at h
    split at h
    · cases h
    · next hk => exact ⟨rfl, _, scalarOk_mod_n _ hk, (Except.ok.inj h).symm⟩

theorem xbG_n_sub (hd : scalarOk d = true) : xbG (n - d) = xbG d := by
  rw [xbG, mulGPoint_n_sub hd, xbG]

/-- R226: d and n − d have one even secret and one x-only key, and signing uses nothing else of the secret. -/
theorem bip340Sign_n_sub (hd : scalarOk d = true) : bip340Sign (n - d) a m = bip340Sign d a m := by
  have hk : bip340Nonce (n - d) a m = bip340Nonce d a m := by
    rw [bip340Nonce, evenSecret_n_sub hd, xbG_n_sub hd, bip340Nonce]
  rw [bip340Sign_of_scalarOk (scalarOk_n_sub hd), bip340Sign_of_scalarOk hd, hk, evenSecret_n_sub hd, xbG_n_sub hd]

end

/-! ## Verification (R224) -/

section
variable {px r v e : Nat} {m sig : List Byte} (hr : r = os2ip (sig.take 32)) (hv : v = os2ip (sig.drop 32))
include hr hv

theorem bip340Verify_of_failing (h : lift px 0 = none ∨ p ≤ r ∨ n ≤ v) : bip340Verify px m sig = false := by
  rw [bip340Verify, liftX]
  cases hlift : lift px 0 with
  | none => rfl
  | some P =>
    rw [hlift, hr, hv] at h
    exact if_pos (h.resolve_left (by simp))

theorem bip340Verify_of_lift {P : Fp × Fp} (he : e = bip340Challenge (sig.take 32) (be32 px) m)
    (hlift : lift px 0 = some P) (hrp : r < p) (hvn : v < n) :
    bip340Verify px m sig =
      (affine (psubF (mulPoint v G) (mulPoint e (ofAffine (some P))))).any fun R => evenY R && R.1.val == r := by
  have hok : ¬(p ≤ r ∨ n ≤ v) := not_or.mpr ⟨Nat.not_le.mpr hrp, Nat.not_le.mpr hvn⟩
  subst hr hv he
  simp only [bip340Verify, liftX, hlift, if_neg hok]
  cases affine (psubF _ _) <;> rfl

end

section
variable [Fact (Nat.Prime p)] {g P Q : secp.Point} {T : Triple} {px r v e : Nat} {m sig : List Byte}

/-- The last check of R224 on a triple of the point Q. -/
theorem any_affine_iff (hT : Denotes T Q) :
    ((affine T).any fun R => evenY R && R.1.val == r) = true ↔
      ∃ rx ry h, Q = .some rx ry h ∧ ry.val % 2 = 0 ∧ rx.val = r := by
  rw [Option.any_eq_true]
  constructor
  · rintro ⟨⟨x, y⟩, hxy, hcheck⟩
    obtain ⟨hns, hQ⟩ := hT.affine_eq_some_iff.mp hxy
    rw [Bool.and_eq_true, evenY_iff, beq_iff_eq] at hcheck
    exact ⟨_, _, hns, hQ, (val_toZ y).symm ▸ hcheck.1, (val_toZ x).symm ▸ hcheck.2⟩
  · rintro ⟨rx, ry, hns, hQ, hy, hx⟩
    obtain ⟨x, rfl⟩ := exists_toZ_eq rx
    obtain ⟨y, rfl⟩ := exists_toZ_eq ry
    rw [val_toZ] at hx hy
    refine ⟨(x, y), hT.affine_eq_some_iff.mpr ⟨hns, hQ⟩, ?_⟩
    rw [Bool.and_eq_true, evenY_iff, beq_iff_eq]
    exact ⟨hy, hx⟩

theorem denotes_verification (hg : Denotes G g) (hP : Denotes T P) (hv : v < n) (he : e < n) :
    Denotes (psubF (mulPoint v G) (mulPoint e T)) (v • g - e • P) := by
  rw [sub_eq_add_neg]
  exact denotes_paddF (denotes_mulPoint v (lt_two_pow_of_lt_n hv) hg)
    (denotes_pnegF (denotes_mulPoint e (lt_two_pow_of_lt_n he) hP))

/-- R224 past its range checks: s·G − e·P is an affine point of E with an even y and the x-coordinate r. -/
theorem bip340Verify_iff {x y : Fp} (hr : r = os2ip (sig.take 32)) (hv : v = os2ip (sig.drop 32))
    (he : e = bip340Challenge (sig.take 32) (be32 px) m) (hlift : lift px 0 = some (x, y)) (hrp : r < p) (hvn : v < n)
    (hP : Denotes ⟨x, y, 1⟩ P) (hg : Denotes G g) :
    bip340Verify px m sig = true ↔ ∃ rx ry h, v • g - e • P = .some rx ry h ∧ ry.val % 2 = 0 ∧ rx.val = r := by
  have hen : e < n := he ▸ Nat.mod_lt _ (by decide)
  rw [bip340Verify_of_lift hr hv he hlift hrp hvn, ofAffine_some]
  exact any_affine_iff (denotes_verification hg hP hvn hen)

/-- (k + e·d)·G − e·(d·G) = k·G (R226). -/
theorem verification_eq_nonce (hg : Denotes G g) (k d e : Nat) : ((k + e * d) % n) • g - e • d • g = k • g := by
  rw [mod_n_nsmul_generator hg, add_nsmul, mul_nsmul', add_sub_cancel_right]

end

/-- R226: what bip340_sign gives verifies under the x-only key of the secret. -/
theorem bip340Verify_of_bip340Sign {d : Nat} {a m sig : List Byte} (h : bip340Sign d a m = .ok sig) :
    bip340Verify (mulGPoint d).1.val m sig = true := by
  have : Fact (Nat.Prime p) := ⟨prime_p⟩
  obtain ⟨g, hg⟩ := exists_generator
  obtain ⟨hd, k, hk, rfl⟩ := bip340Sign_ok h
  have hlen : (xbG k).length = 32 := length_be32 _
  have hlt : (evenSecret k + bip340Challenge (xbG k) (xbG d) m * evenSecret d) % n < n := Nat.mod_lt _ (by decide)
  refine (bip340Verify_iff (r := (mulGPoint k).1.val) ?_ ?_ rfl (liftX_mulGPoint hd) (mulGPoint k).1.isLt hlt
    (denotes_mulGPoint_of_scalarOk hg (scalarOk_evenSecret hd)) hg).mpr ?_
  · rw [List.take_left' hlen, xbG, os2ip_be32_val]
  · rw [List.drop_left' hlen, os2ip_be32 (lt_two_pow_of_lt_n hlt)]
  · obtain ⟨hns, hpoint⟩ :=
      denotes_normalised_iff.mp (denotes_mulGPoint_of_scalarOk hg (scalarOk_evenSecret hk))
    rw [List.take_left' hlen]
    refine ⟨_, _, hns, (verification_eq_nonce hg _ _ _).trans hpoint, ?_, ?_⟩
    · rw [val_toZ]
      exact sgn0_mulGPoint_evenSecret hk
    · rw [val_toZ, mulGPoint_evenSecret_fst hk]

/-! ## Tweaks (R227) -/

section
variable {d px t : Nat} {root : List Byte}

/-- tweak_sec of R227: its three checks, and the tweaked secret. -/
theorem tweakSec_of_rejected (ht : t = tapTweak (xbG d) root)
    (h : ¬scalarOk d = true ∨ n ≤ t ∨ (evenSecret d + t) % n = 0) : tweakSec d root = .error .domain := by
  subst ht
  unfold tweakSec
  split
  · rfl
  · next hd =>
    rw [Bool.not_eq_true', Bool.not_eq_false] at hd
    refine ite_eq_left_iff.mpr fun hn => if_pos ?_
    exact (h.resolve_left (not_not.mpr hd)).resolve_left hn

theorem tweakSec_of_accepted (ht : t = tapTweak (xbG d) root) (hd : scalarOk d = true) (htn : t < n)
    (h0 : (evenSecret d + t) % n ≠ 0) : tweakSec d root = .ok ((evenSecret d + t) % n) := by
  subst ht
  exact (if_neg (by rw [hd]; decide)).trans ((if_neg (Nat.not_le.mpr htn)).trans (if_neg h0))

theorem tweakSec_ok {dt : Nat} (h : tweakSec d root = .ok dt) :
    scalarOk d = true ∧ tapTweak (xbG d) root < n ∧ dt = (evenSecret d + tapTweak (xbG d) root) % n ∧
      scalarOk dt = true := by
  by_cases hbad : ¬scalarOk d = true ∨ n ≤ tapTweak (xbG d) root ∨ (evenSecret d + tapTweak (xbG d) root) % n = 0
  · rw [tweakSec_of_rejected rfl hbad] at h
    cases h
  · rw [not_or, not_or, not_not, Nat.not_le] at hbad
    obtain ⟨hd, htn, h0⟩ := hbad
    cases (tweakSec_of_accepted rfl hd htn h0).symm.trans h
    exact ⟨hd, htn, rfl, scalarOk_mod_n _ h0⟩

/-- tweak_pub of R227: the key has no point, or the tweak is out of range. -/
theorem tweakPub_of_failing (ht : t = tapTweak (be32 px) root) (h : lift px 0 = none ∨ n ≤ t) :
    tweakPub px root = .error .domain := by
  rw [tweakPub, liftX]
  cases hlift : lift px 0 with
  | none => rfl
  | some P =>
    rw [hlift, ht] at h
    exact if_pos (h.resolve_left (by simp))

section
variable {P : Fp × Fp} (ht : t = tapTweak (be32 px) root) (hlift : lift px 0 = some P) (htn : t < n)
include ht hlift htn

theorem tweakPub_of_infinity (h : affine (paddF (ofAffine (some P)) (mulPoint t G)) = none) :
    tweakPub px root = .error .domain := by
  subst ht
  simp only [tweakPub, liftX, hlift, if_neg (Nat.not_le.mpr htn), h]

theorem tweakPub_of_affine {Q : Fp × Fp} (h : affine (paddF (ofAffine (some P)) (mulPoint t G)) = some Q) :
    tweakPub px root = .ok (Q.1.val, sgn0 Q.2) := by
  subst ht
  simp only [tweakPub, liftX, hlift, if_neg (Nat.not_le.mpr htn), h]

end

theorem denotes_tweaked [Fact (Nat.Prime p)] {T : Triple} {g P : secp.Point} (hT : Denotes T P) (hg : Denotes G g)
    (htn : t < n) : Denotes (paddF T (mulPoint t G)) (P + t • g) :=
  denotes_paddF hT (denotes_mulPoint t (lt_two_pow_of_lt_n htn) hg)

/-- The tweaked secret's public key is the tweaked public key (R234). -/
theorem tweakPub_of_tweakSec {dt : Nat} (h : tweakSec d root = .ok dt) :
    tweakPub (mulGPoint d).1.val root = .ok ((mulGPoint dt).1.val, sgn0 (mulGPoint dt).2) := by
  have : Fact (Nat.Prime p) := ⟨prime_p⟩
  obtain ⟨g, hg⟩ := exists_generator
  obtain ⟨hd, htn, rfl, hdt⟩ := tweakSec_ok h
  have hQ := denotes_tweaked (denotes_mulGPoint_of_scalarOk hg (scalarOk_evenSecret hd)) hg htn
  rw [← add_nsmul, ← mod_n_nsmul_generator hg] at hQ
  exact tweakPub_of_affine rfl (liftX_mulGPoint hd) htn (affine_eq_mulGPoint hg hQ hdt)

/-- The output key is an x-coordinate. -/
theorem lt_p_of_tweakPub_ok {qx par : Nat} (h : tweakPub px root = .ok (qx, par)) : qx < p := by
  unfold tweakPub at h
  split at h
  · cases h
  · simp only at h
    split at h
    · cases h
    · split at h
      · cases h
      · next Q _ =>
        cases h
        exact Q.1.isLt

theorem tapVerifies_of_error {c : ErrCode} {m sig : List Byte} (h : tweakPub px root = .error c) :
    tapVerifies px root m sig = false := by
  rw [tapVerifies, h]

theorem tapVerifies_of_ok {qx par : Nat} {m sig : List Byte} (h : tweakPub px root = .ok (qx, par)) :
    tapVerifies px root m sig = bip340Verify qx m sig := by
  rw [tapVerifies, h]

end

/-! ## Outcomes (R223, R225, R228, R230, R232) -/

section
variable {b : Block} {d px : Nat} {a root : List Byte} {rd : Reg} {pred : List Byte → List Byte → Bool}

theorem schnorrSignOutcome_of_tooLong (h : 1024 < b.msglen.toNat) : schnorrSignOutcome d a b = .error .size :=
  if_pos (b.msgTooLong_iff.mpr h)

theorem not_msgTooLong (h : b.msglen.toNat ≤ 1024) : ¬b.msgTooLong = true :=
  b.msgTooLong_iff.not.mpr (Nat.not_lt.mpr h)

theorem schnorrSignOutcome_of_fits (h : b.msglen.toNat ≤ 1024) :
    schnorrSignOutcome d a b = signOutcome (bip340Sign d a b.msgBytes) :=
  if_neg (not_msgTooLong h)

theorem tapSignOutcome_of_tooLong (h : 1024 < b.msglen.toNat) : tapSignOutcome d root a b = .error .size :=
  if_pos (b.msgTooLong_iff.mpr h)

theorem tapSignOutcome_of_error {c : ErrCode} (h : b.msglen.toNat ≤ 1024) (ht : tweakSec d root = .error c) :
    tapSignOutcome d root a b = .error c := by
  rw [tapSignOutcome, if_neg (not_msgTooLong h), ht]

theorem tapSignOutcome_of_ok {dt : Nat} (h : b.msglen.toNat ≤ 1024) (ht : tweakSec d root = .ok dt) :
    tapSignOutcome d root a b = signOutcome (bip340Sign dt a b.msgBytes) := by
  rw [tapSignOutcome, if_neg (not_msgTooLong h), ht]

theorem verifyOutcome_of_tooLong (h : 128 < b.buflen.toNat ∨ 1024 < b.msglen.toNat) :
    verifyOutcome b pred = .error .size :=
  if_pos (by rwa [Bool.or_eq_true, Block.bufTooLong_iff, Block.msgTooLong_iff])

section
variable (hm : b.msglen.toNat ≤ 1024)
include hm

theorem verifyOutcome_of_other (h : b.buflen.toNat ≤ 128) (h64 : b.buflen.toNat ≠ 64) :
    verifyOutcome b pred = .error .length := by
  rw [verifyOutcome, if_neg (by rw [Bool.or_eq_true]; exact not_or.mpr ⟨not_bufTooLong h, not_msgTooLong hm⟩),
    if_pos (buflen_ne_of_toNat_ne h64)]

theorem verifyOutcome_of_64 (h : b.buflen.toNat = 64) : verifyOutcome b pred = okRes (pred b.msgBytes b.bufBytes) := by
  have hb : b.buflen = 64 := BitVec.eq_of_toNat_eq h
  rw [verifyOutcome,
    if_neg (by rw [Bool.or_eq_true]; exact not_or.mpr ⟨not_bufTooLong (by omega), not_msgTooLong hm⟩),
    if_neg (not_not.mpr hb)]

end

theorem tweakOutcome_of_error {c : ErrCode} (h : tweakPub px root = .error c) : tweakOutcome rd px root = .error c := by
  rw [tweakOutcome, h]

theorem tweakOutcome_of_ok {qx par : Nat} (h : tweakPub px root = .ok (qx, par)) :
    tweakOutcome rd px root = .ok { regs := wrReg rd qx, res := some (par == 1) } := by
  rw [tweakOutcome, h]

end

end Sys2Proof.Machine
end

section
/-! The statements on SCHNORR.SIGN, SCHNORR.VERIFY and the TAP commands (R222 to R234). -/

namespace Sys2Proof.Machine

section
variable (rd rs1 rs2 rs3 : Reg) (s : State)

theorem exec_schnorrSign : exec (.schnorrSign rs1 rs2) s =
    s.finish (schnorrSignOutcome (s.val rs1) (s.bytes32 rs2) s.toBlock) := rfl

theorem exec_schnorrVerify : exec (.schnorrVerify rs1) s =
    s.finish (verifyOutcome s.toBlock (bip340Verify (s.val rs1))) := rfl

end

/-! ## The meaning that a form with a root and its N form share -/

section
variable {i j : Instr} {s : State} {rd rs1 rs2 rs3 : Reg} {root : List Byte}

theorem exec_tapTweak_forms
    (h : i = .tapTweak rd rs1 rs2 ∧ root = be32 (s.reg rs2).toNat ∨ i = .tapTweakN rd rs1 ∧ root = []) :
    exec i s = s.finish (tweakOutcome rd (s.val rs1) root) := by
  obtain ⟨rfl, rfl⟩ | ⟨rfl, rfl⟩ := h
  · rfl
  · rfl

theorem exec_tapSign_forms
    (h : i = .tapSign rs1 rs2 rs3 ∧ root = be32 (s.reg rs2).toNat ∨ i = .tapSignN rs1 rs3 ∧ root = []) :
    exec i s = s.finish (tapSignOutcome (s.val rs1) root (s.bytes32 rs3) s.toBlock) := by
  obtain ⟨rfl, rfl⟩ | ⟨rfl, rfl⟩ := h
  · rfl
  · rfl

theorem exec_tapVerify_forms
    (h : i = .tapVerify rs1 rs2 ∧ root = be32 (s.reg rs2).toNat ∨ i = .tapVerifyN rs1 ∧ root = []) :
    exec i s = s.finish (verifyOutcome s.toBlock (tapVerifies (s.val rs1) root)) := by
  obtain ⟨rfl, rfl⟩ | ⟨rfl, rfl⟩ := h
  · rfl
  · rfl

end

/-! ## Completions -/

section
variable {i : Instr} {s t : State}

/-- A command that ends in bip340_sign (R223, R230). -/
theorem signs_of_exec_bip340Sign {d : Nat} {a m : List Byte} (h : exec i s = s.finish (signOutcome (bip340Sign d a m)))
    (hwf : s.mem.wf) :
    (∀ c, bip340Sign d a m = .error c → ∃ t, exec i s = .next t ∧ FailsWith .domain s t) ∧
    ∀ sig, bip340Sign d a m = .ok sig →
      ∃ t, exec i s = .next t ∧ PutsBuf s t sig ∧ sig.length = 64 ∧ t.res = s.res := by
  refine ⟨fun c hc => ?_, fun sig hsig => ?_⟩
  · rw [hc, eq_domain_of_bip340Sign_error hc] at h
    exact failsWith_of_exec_error h
  · have hlen := signsWithLength_bip340Sign d a m sig hsig
    rw [hsig, signOutcome_ok] at h
    obtain ⟨t, ht, hput, hres⟩ := putsBuf_of_exec_okBuf h hwf (by omega)
    exact ⟨t, ht, hput, hlen, hres⟩

variable {pred : List Byte → List Byte → Bool} (h : exec i s = s.finish (verifyOutcome s.toBlock pred))
include h

theorem failsWith_size_of_exec_verify (hL : 128 < s.buflen.toNat ∨ 1024 < s.msglen.toNat) :
    ∃ t, exec i s = .next t ∧ FailsWith .size s t := by
  rw [verifyOutcome_of_tooLong hL] at h
  exact failsWith_of_exec_error h

theorem failsWith_length_of_exec_verify (hL : s.buflen.toNat ≤ 128) (hm : s.msglen.toNat ≤ 1024)
    (h64 : s.buflen.toNat ≠ 64) : ∃ t, exec i s = .next t ∧ FailsWith .length s t := by
  rw [verifyOutcome_of_other hm hL h64] at h
  exact failsWith_of_exec_error h

theorem writesRes_of_exec_verify (h64 : s.buflen.toNat = 64) (hm : s.msglen.toNat ≤ 1024) :
    ∃ t, exec i s = .next t ∧ WritesRes s t (pred s.msgBytes s.bufBytes) := by
  rw [verifyOutcome_of_64 hm h64] at h
  exact writesRes_of_exec_okRes h

/-- Verification after a signing command sees the message signed and the signature put in BUF. -/
theorem verifies_after_signing {s₀ : State} {sig : List Byte} (hput : PutsBuf s₀ s sig) (hlen : sig.length = 64)
    (hm : s₀.msglen.toNat ≤ 1024) (hpred : pred s₀.msgBytes sig = true) :
    ∃ t, exec i s = .next t ∧ WritesRes s t true := by
  have h64 : s.buflen.toNat = 64 := (hput.toNat_buflen (by omega)).trans hlen
  have hres := writesRes_of_exec_verify h h64 (hput.completes.host.msglen ▸ hm)
  rwa [hput.msgBytes_eq, hput.bufBytes_eq (by omega), hpred] at hres

end

/-! ## SCHNORR.SIGN and SCHNORR.VERIFY (R222 to R226) -/

/-- Settles O38: bip340_sign's values are those of R222 with the even secrets written out, and SCHNORR.SIGN ends in it
once the message fits. -/
theorem schnorrSignSigns : Obligations.SchnorrSignSigns := by
  unfold Obligations.SchnorrSignSigns
  refine ⟨fun d0 a m => ⟨fun hbad => bip340Sign_of_bad_secret ((scalarOk_eq_false_iff d0).mpr hbad), ?_⟩, ?_⟩
  · rintro h1 hle d k0 k e px rx hpx hd hk0 hrx hk he
    have hk0 : k0 = bip340Nonce d0 a m := by rw [hk0, hd, hpx, bip340Nonce, xorBytes, evenSecret_eq, xbG]
    have hsign := bip340Sign_of_scalarOk (a := a) (m := m) ((scalarOk_iff d0).mpr ⟨h1, hle⟩)
    rw [← hk0] at hsign
    refine ⟨fun h0 => hsign.trans (if_pos h0), fun h0 => hsign.trans ((if_neg h0).trans ?_)⟩
    rw [he, hk, hd, hrx, hpx, bip340Challenge, evenSecret_eq, evenSecret_eq, xbG, xbG]
  · intro rs1 rs2 s m hwf hm
    have hexec := exec_schnorrSign rs1 rs2 s
    refine ⟨encodedAs_of_encode (pack_eq_cmdWord 0x54 0 0 rs1 rs2 0), fun hlong => ?_, fun hfits => ?_⟩
    · rw [schnorrSignOutcome_of_tooLong hlong] at hexec
      exact failsWith_of_exec_error hexec
    · have hbytes : s.msgBytes = m := hm.symm
      rw [schnorrSignOutcome_of_fits hfits, hbytes] at hexec
      exact signs_of_exec_bip340Sign hexec hwf

/-- Settles O39: the checks of R224 and, past them, its equation in E; SCHNORR.VERIFY's lengths and its one write. -/
theorem schnorrVerifyVerifies : Obligations.SchnorrVerifyVerifies := by
  unfold Obligations.SchnorrVerifyVerifies
  refine ⟨fun px r v e m sig _ hr hv he => ⟨bip340Verify_of_failing hr hv, ?_⟩, fun rs1 s m sig hm hsig => ?_⟩
  · intro _ x y P g hlift hrp hvn hP hg
    exact bip340Verify_iff hr hv he hlift hrp hvn hP hg
  · have hexec := exec_schnorrVerify rs1 s
    refine ⟨encodedAs_of_encode (pack_eq_cmdWord 0x55 0 0 rs1 0 0), failsWith_size_of_exec_verify hexec,
      failsWith_length_of_exec_verify hexec, fun h64 hfits => ?_⟩
    have hres := writesRes_of_exec_verify hexec h64 hfits
    have hbytes : s.msgBytes = m := hm.symm
    rwa [hbytes, (Block.bufBytes_of_buflen h64).trans hsig.symm] at hres

/-- Settles O40: SCHNORR.VERIFY sees the message and the signature of SCHNORR.SIGN, and bip340_sign depends on the
secret through its even secret alone. -/
theorem schnorrSignThenVerify : Obligations.SchnorrSignThenVerify := by
  unfold Obligations.SchnorrSignThenVerify
  refine ⟨fun r1 r2 rx s t _ hwf ht herr hx => ?_, fun d a m h1 hle => ?_⟩
  swap
  · exact bip340Sign_n_sub ((scalarOk_iff d).mpr ⟨h1, hle⟩)
  have hexec := exec_schnorrSign r1 r2 s
  by_cases hlong : 1024 < s.msglen.toNat
  · rw [schnorrSignOutcome_of_tooLong hlong] at hexec
    exact absurd (err_of_exec_error hexec ht) (ne_true_of_eq_false herr)
  · have hfits := Nat.not_lt.mp hlong
    rw [schnorrSignOutcome_of_fits hfits] at hexec
    obtain ⟨sig, hsig, hlen, hput⟩ :=
      exists_signature_of_exec hexec (signsWithLength_bip340Sign _ _ _) (by decide) hwf ht herr
    have hkey : t.val rx = (mulGPoint (s.val r1)).1.val := hx
    refine verifies_after_signing (exec_schnorrVerify rx t) hput hlen hfits ?_
    rw [hkey]
    exact bip340Verify_of_bip340Sign hsig

/-! ## The TAP commands (R227 to R234) -/

/-- Settles O41: the checks of tweak_pub, then the affine form of a triple of P + t·G. -/
theorem tapTweakTweaks : Obligations.TapTweakTweaks := by
  unfold Obligations.TapTweakTweaks
  intro rd rs1 rs2 s px k i root hpx hi hk
  have hexec := exec_tapTweak_forms hi
  rw [Block.val, hpx] at hexec
  refine ⟨encodedAs_of_encode (pack_eq_cmdWord 0x56 0 rd rs1 rs2 0),
    encodedAs_of_encode (pack_eq_cmdWord 0x56 1 rd rs1 0 0), fun hfail => ?_, ?_⟩
  · rw [tweakOutcome_of_error (tweakPub_of_failing hk hfail)] at hexec
    exact failsWith_of_exec_error hexec
  · intro _ x y P g hlift hkn hP hg
    have hQ := denotes_tweaked hP hg hkn
    refine ⟨fun hzero => ?_, fun qx qy hns hpoint => ?_⟩
    · rw [tweakOutcome_of_error (tweakPub_of_infinity hk hlift hkn (hQ.affine_eq_none hzero))] at hexec
      exact failsWith_of_exec_error hexec
    · obtain ⟨a, rfl⟩ := exists_toZ_eq qx
      obtain ⟨b, rfl⟩ := exists_toZ_eq qy
      rw [tweakOutcome_of_ok (tweakPub_of_affine hk hlift hkn (hQ.affine_eq_some_iff.mpr ⟨hns, hpoint⟩))] at hexec
      rw [val_toZ, val_toZ]
      exact ⟨_, hexec, putsReg_complete_ok s rd _ _, rfl⟩

/-- Settles O42: the checks of tweak_sec, then bip340_sign under the tweaked secret. -/
theorem tapSignSigns : Obligations.TapSignSigns := by
  unfold Obligations.TapSignSigns
  intro rs1 rs2 rs3 s d0 d k i root m hwf hd0 hi hm hd hk
  have hexec := exec_tapSign_forms hi
  have hbytes : s.msgBytes = m := hm.symm
  rw [Block.val, hd0] at hexec
  rw [← evenSecret_eq] at hd
  subst hd
  refine ⟨encodedAs_of_encode (pack_eq_cmdWord 0x57 0 0 rs1 rs2 rs3),
    encodedAs_of_encode (pack_eq_cmdWord 0x57 1 0 rs1 0 rs3), fun hlong => ?_, fun hfits => ⟨fun hbad => ?_, ?_⟩⟩
  · rw [tapSignOutcome_of_tooLong hlong] at hexec
    exact failsWith_of_exec_error hexec
  · rw [← scalarOk_iff] at hbad
    rw [tapSignOutcome_of_error hfits (tweakSec_of_rejected hk hbad)] at hexec
    exact failsWith_of_exec_error hexec
  · intro h1 hle hkn h0
    rw [tapSignOutcome_of_ok hfits (tweakSec_of_accepted hk ((scalarOk_iff _).mpr ⟨h1, hle⟩) hkn h0), hbytes] at hexec
    obtain ⟨herror, hok⟩ := signs_of_exec_bip340Sign hexec hwf
    refine ⟨herror, fun sig hsig => ?_⟩
    obtain ⟨t, ht, hput, -, hres⟩ := hok sig hsig
    exact ⟨t, ht, hput, hres⟩

/-- TAP.VERIFY's result and the completion of the tweak command from the same state, for one root (R232). -/
theorem tapVerifies_eq_of_exec_tweak {j : Instr} {s : State} {rd : Reg} {px : Nat} {root m sig : List Byte}
    (h : exec j s = s.finish (tweakOutcome rd px root)) :
    ∃ u, exec j s = .next u ∧
      tapVerifies px root m sig = if u.err then false else bip340Verify (u.reg rd).toNat m sig := by
  cases htweak : tweakPub px root with
  | error c =>
    rw [tweakOutcome_of_error htweak] at h
    exact ⟨_, h, tapVerifies_of_error htweak⟩
  | ok out =>
    obtain ⟨qx, par⟩ := out
    have hqx : qx < 2 ^ 256 := (lt_p_of_tweakPub_ok htweak).trans (by decide)
    rw [tweakOutcome_of_ok htweak] at h
    have hput := putsReg_complete_ok s rd qx (par == 1)
    refine ⟨_, h, ?_⟩
    rw [hput.completes.err, hput.dest, BitVec.toNat_ofNat, Nat.mod_eq_of_lt hqx]
    exact tapVerifies_of_ok htweak

/-- Settles O43: the lengths of R232, and TAP.VERIFY's predicate by the completion of the tweak command. -/
theorem tapVerifyVerifies : Obligations.TapVerifyVerifies := by
  unfold Obligations.TapVerifyVerifies
  intro rd rs1 rs2 s i j m sig hij hm hsig
  obtain ⟨root, hexec, htweak⟩ : ∃ root,
      exec i s = s.finish (verifyOutcome s.toBlock (tapVerifies (s.val rs1) root)) ∧
      exec j s = s.finish (tweakOutcome rd (s.val rs1) root) := by
    obtain ⟨hi, hj⟩ | ⟨hi, hj⟩ := hij
    · exact ⟨_, exec_tapVerify_forms (.inl ⟨hi, rfl⟩), exec_tapTweak_forms (.inl ⟨hj, rfl⟩)⟩
    · exact ⟨_, exec_tapVerify_forms (rs2 := 0) (.inr ⟨hi, rfl⟩), exec_tapTweak_forms (rs2 := 0) (.inr ⟨hj, rfl⟩)⟩
  refine ⟨encodedAs_of_encode (pack_eq_cmdWord 0x58 0 0 rs1 rs2 0),
    encodedAs_of_encode (pack_eq_cmdWord 0x58 1 0 rs1 0 0), failsWith_size_of_exec_verify hexec,
    failsWith_length_of_exec_verify hexec, fun h64 hfits => ?_⟩
  obtain ⟨t, ht, hw⟩ := writesRes_of_exec_verify hexec h64 hfits
  have hbytes : s.msgBytes = m := hm.symm
  obtain ⟨u, hu, heq⟩ := tapVerifies_eq_of_exec_tweak (m := m) (sig := sig) htweak
  rw [hbytes, (Block.bufBytes_of_buflen h64).trans hsig.symm, heq] at hw
  exact ⟨u, t, hu, ht, hw⟩

/-- Settles O44: the output key is the x-only key of the tweaked secret, under which bip340_sign's result verifies. -/
theorem tapSignThenVerify : Obligations.TapSignThenVerify := by
  unfold Obligations.TapSignThenVerify
  intro r1 r2 r3 rx s t i j _ hwf hij ht herr hx
  obtain ⟨root, hexec, hverify⟩ : ∃ root,
      exec i s = s.finish (tapSignOutcome (s.val r1) root (s.bytes32 r3) s.toBlock) ∧
      (t.regs = s.regs → exec j t = t.finish (verifyOutcome t.toBlock (tapVerifies (t.val rx) root))) := by
    obtain ⟨hi, hj⟩ | ⟨hi, hj⟩ := hij
    · refine ⟨_, exec_tapSign_forms (.inl ⟨hi, rfl⟩), fun hregs => exec_tapVerify_forms (.inl ⟨hj, ?_⟩)⟩
      rw [Block.reg_eq _ _ hregs]
    · exact ⟨_, exec_tapSign_forms (rs2 := 0) (.inr ⟨hi, rfl⟩),
        fun _ => exec_tapVerify_forms (rs2 := 0) (.inr ⟨hj, rfl⟩)⟩
  by_cases hlong : 1024 < s.msglen.toNat
  · rw [tapSignOutcome_of_tooLong hlong] at hexec
    exact absurd (err_of_exec_error hexec ht) (ne_true_of_eq_false herr)
  have hfits := Nat.not_lt.mp hlong
  cases htweak : tweakSec (s.val r1) root with
  | error c =>
    rw [tapSignOutcome_of_error hfits htweak] at hexec
    exact absurd (err_of_exec_error hexec ht) (ne_true_of_eq_false herr)
  | ok dt =>
    rw [tapSignOutcome_of_ok hfits htweak] at hexec
    obtain ⟨sig, hsig, hlen, hput⟩ :=
      exists_signature_of_exec hexec (signsWithLength_bip340Sign _ _ _) (by decide) hwf ht herr
    have hkey : t.val rx = (mulGPoint (s.val r1)).1.val := hx
    refine verifies_after_signing (hverify hput.regs) hput hlen hfits ?_
    rw [hkey, tapVerifies_of_ok (tweakPub_of_tweakSec htweak)]
    exact bip340Verify_of_bip340Sign hsig

end Sys2Proof.Machine
end

section
/-! Squares mod p (R14), and the simplified SWU map of R264 into y² = x³ + A′·x + B′. -/

namespace Sys2Proof.Machine

/-! ## Squares and quotients -/

section
variable {a b c : Fp}

/-- is_square of R14 is Euler's criterion. -/
theorem isSquare_iff_toZ (c : Fp) : isSquare c = true ↔ IsSquare (toZ c) := by
  have : Fact (Nat.Prime p) := ⟨prime_p⟩
  rw [isSquare, Bool.or_eq_true, decide_eq_true_iff, decide_eq_true_iff]
  by_cases hc : c = 0
  · simp [hc]
  · rw [or_iff_right hc, ZMod.euler_criterion p ((toZ_ne_zero c).mpr hc), ← toZ_inj, toZ_fpPow _ _ (by decide), toZ_one,
      show (p - 1) / 2 = p / 2 by decide]

theorem isSquare_iff (c : Fp) : isSquare c = true ↔ ∃ r, r * r = c := by
  rw [isSquare_iff_toZ]
  constructor
  · rintro ⟨z, hz⟩
    obtain ⟨r, rfl⟩ := exists_toZ_eq z
    exact ⟨r, (toZ_inj _ _).mp ((toZ_mul r r).trans hz.symm)⟩
  · rintro ⟨r, rfl⟩
    exact ⟨toZ r, toZ_mul r r⟩

/-- The product of two nonsquares is a square: the quadratic character is −1 on both. -/
theorem isSquare_mul_of_nonsquares (ha : isSquare a = false) (hb : isSquare b = false) : isSquare (a * b) = true := by
  have : Fact (Nat.Prime p) := ⟨prime_p⟩
  have hnot {c : Fp} (hc : isSquare c = false) : quadraticChar (ZMod p) (toZ c) = -1 := by
    rw [quadraticChar_neg_one_iff_not_isSquare, ← isSquare_iff_toZ, hc]
    exact Bool.false_ne_true
  have hχ : quadraticChar (ZMod p) (toZ a * toZ b) = 1 := by rw [map_mul, hnot ha, hnot hb]; rfl
  have hne : toZ a * toZ b ≠ 0 := fun h0 => by simp [h0] at hχ
  rw [isSquare_iff_toZ, toZ_mul]
  exact (quadraticChar_one_iff_isSquare hne).mp hχ

theorem sqr_sqrtP_of_isSquare (h : isSquare c = true) : sqr (sqrtP c) = c := by
  obtain ⟨r, rfl⟩ := (isSquare_iff c).mp h
  exact sqr_sqrtP r

theorem invP_eq_zero_iff : invP a = 0 ↔ a = 0 := by
  have : Fact (Nat.Prime p) := ⟨prime_p⟩
  rw [← toZ_eq_zero, toZ_invP, inv_eq_zero, toZ_eq_zero]

/-- A quotient a/b by its defining product. -/
theorem eq_mul_invP_iff (hb : b ≠ 0) : c = a * invP b ↔ c * b = a := by
  have : Fact (Nat.Prime p) := ⟨prime_p⟩
  rw [← toZ_inj, ← toZ_inj, toZ_mul, toZ_mul, toZ_invP, eq_mul_inv_iff_mul_eq₀ ((toZ_ne_zero b).mpr hb)]

theorem withParity_zero (par : Nat) : withParity 0 par = 0 := by
  unfold withParity
  split <;> rfl

end

/-! ## x1 -/

theorem swuZ_eq : swuZ = -11 := by decide

theorem swuA_ne_zero : swuA ≠ 0 := by decide

/-- Z is no square (R264). -/
theorem isSquare_swuZ : isSquare swuZ = false := by decide +kernel

/-- Z²·u⁴ + Z·u², which R264 inverts. -/
def swuDenominator (u : Fp) : Fp := sqr swuZ * sqr (sqr u) + swuZ * sqr u

section
variable {u : Fp}

theorem swuX1_of_denominator_eq_zero (h : swuDenominator u = 0) : swuX1 u = swuB * invP (swuZ * swuA) :=
  if_pos (invP_eq_zero_iff.mpr h)

theorem swuX1_of_denominator_ne_zero (h : swuDenominator u ≠ 0) :
    swuX1 u = -(swuB * (1 + swuDenominator u)) * invP (swuA * swuDenominator u) := by
  have : Fact (Nat.Prime p) := ⟨prime_p⟩
  have hA := (toZ_ne_zero _).mpr swuA_ne_zero
  have hd := (toZ_ne_zero _).mpr h
  have hx : swuX1 u = -swuB * invP swuA * (1 + invP (swuDenominator u)) := if_neg (invP_eq_zero_iff.not.mpr h)
  rw [hx, ← toZ_inj]
  simp only [toZ_mul, toZ_add, toZ_neg, toZ_invP, toZ_one]
  field_simp
  ring

theorem eq_swuX1_iff_of_denominator_eq_zero (h : swuDenominator u = 0) {x : Fp} :
    x = swuX1 u ↔ x * (swuZ * swuA) = swuB := by
  rw [swuX1_of_denominator_eq_zero h, eq_mul_invP_iff (by decide)]

theorem eq_swuX1_iff_of_denominator_ne_zero (h : swuDenominator u ≠ 0) {x : Fp} :
    x = swuX1 u ↔ x * (swuA * swuDenominator u) = -(swuB * (1 + swuDenominator u)) := by
  rw [swuX1_of_denominator_ne_zero h, eq_mul_invP_iff (Fp.mul_ne_zero_of_ne swuA_ne_zero h)]

/-! ## The selected x -/

/-- Away from the exceptional u, x2 = t·x1 with t = Z·u², and x1 is chosen so that g(x2) = t³·g(x1). -/
theorem swuG_x2 (h : swuDenominator u ≠ 0) :
    swuG (swuZ * sqr u * swuX1 u) = cube (swuZ * sqr u) * swuG (swuX1 u) := by
  have hx := congrArg toZ ((eq_swuX1_iff_of_denominator_ne_zero h).mp rfl)
  rw [← toZ_inj]
  simp only [swuDenominator, swuG, toZ_add, toZ_mul, toZ_neg, toZ_one, toZ_sqr, toZ_cube] at hx ⊢
  linear_combination (1 - toZ swuZ * toZ u ^ 2) * hx

/-- Z is chosen so that the x1 of the exceptional u, where the inverted value is 0, has a square g(x1) (R264). -/
theorem isSquare_swuG_swuX1_of_denominator_eq_zero (h : swuDenominator u = 0) : isSquare (swuG (swuX1 u)) = true := by
  rw [swuX1_of_denominator_eq_zero h]
  decide +kernel

/-- Where g(x1) is no square, g(x2) = Z²·u⁶·(Z·g(x1)) is one, since Z is none either. -/
theorem isSquare_swuG_x2 (h : isSquare (swuG (swuX1 u)) = false) :
    isSquare (swuG (swuZ * sqr u * swuX1 u)) = true := by
  have hd : swuDenominator u ≠ 0 := fun h0 => by
    rw [isSquare_swuG_swuX1_of_denominator_eq_zero h0] at h
    cases h
  obtain ⟨r, hr⟩ := (isSquare_iff _).mp (isSquare_mul_of_nonsquares isSquare_swuZ h)
  have hr := congrArg toZ hr
  refine (isSquare_iff _).mpr ⟨swuZ * cube u * r, ?_⟩
  rw [swuG_x2 hd, ← toZ_inj]
  simp only [toZ_mul, toZ_cube, toZ_sqr] at hr ⊢
  linear_combination toZ swuZ ^ 2 * toZ u ^ 6 * hr

end

/-- The x of sswu(u): x1 when g(x1) is a square and x2 otherwise (R264). -/
def swuX (u : Fp) : Fp := if isSquare (swuG (swuX1 u)) then swuX1 u else swuZ * sqr u * swuX1 u

section
variable (u : Fp)

theorem isSquare_swuG_swuX : isSquare (swuG (swuX u)) = true := by
  unfold swuX
  split
  · assumption
  · next h => exact isSquare_swuG_x2 (Bool.eq_false_of_not_eq_true h)

theorem sswu_eq : sswu u = (swuX u, withParity (sqrtP (swuG (swuX u))) (sgn0 u)) := by
  simp only [sswu, swuX, withParity, ne_comm (a := sgn0 u)]
  split <;> rfl

theorem sqr_sswu_snd : sqr (sswu u).2 = swuG (sswu u).1 := by
  rw [sswu_eq, sqr_withParity, sqr_sqrtP_of_isSquare (isSquare_swuG_swuX u)]

theorem sgn0_sswu_snd (h : (sswu u).2 ≠ 0) : sgn0 (sswu u).2 = sgn0 u := by
  have hy : (sswu u).2 = withParity (sqrtP (swuG (swuX u))) (sgn0 u) := by rw [sswu_eq]
  rw [hy] at h ⊢
  have hpar : sgn0 u < 2 := Nat.mod_lt _ (by decide)
  refine sgn0_withParity (fun h0 => h ?_) hpar
  rw [h0, withParity_zero]

end

end Sys2Proof.Machine
end

section
/-! The isogeny of R265 as the quotient of y² = x³ + A′·x + B′ by a subgroup of order 3: with κ a sixth of the abscissa of the
kernel, 2·κ³ = 7 and every coefficient of the curve and of the map is a small multiple of a power of κ. -/

namespace Sys2Proof.Machine

/-- κ: the map's denominators are 0 at x = 6·κ alone. -/
def kernelSixth : Fp := toFp 0x4186DA16250A5852D604F118E863A7CE54C3B70CFD62CFDB04E7237791C9A04E

theorem two_mul_kernelSixth_pow : 2 * toZ kernelSixth ^ 3 = 7 := by
  have h : 2 * cube kernelSixth = 7 := by decide +kernel
  simpa only [toZ_mul, toZ_cube, toZ_ofNat] using congrArg toZ h

/-- A cubic whose coefficients are, up to a factor m, multiples of the powers of k. -/
theorem toZ_scaled_cubic {m k a₃ a₂ a₁ a₀ : Fp} (e₂ e₁ e₀ : Fp) (h₃ : m * a₃ = 1) (h₂ : m * a₂ = e₂ * k)
    (h₁ : m * a₁ = e₁ * sqr k) (h₀ : m * a₀ = e₀ * cube k) (x : Fp) :
    toZ m * toZ (a₃ * cube x + a₂ * sqr x + a₁ * x + a₀) =
      toZ x ^ 3 + toZ e₂ * toZ k * toZ x ^ 2 + toZ e₁ * toZ k ^ 2 * toZ x + toZ e₀ * toZ k ^ 3 := by
  rw [← toZ_inj] at h₃ h₂ h₁ h₀
  simp only [toZ_add, toZ_mul, toZ_sqr, toZ_cube, toZ_one] at h₃ h₂ h₁ h₀ ⊢
  linear_combination toZ x ^ 3 * h₃ + toZ x ^ 2 * h₂ + toZ x * h₁ + h₀

section
variable (x : Fp)

theorem toZ_swuG : toZ (swuG x) = toZ x ^ 3 - 120 * toZ kernelSixth ^ 2 * toZ x + 506 * toZ kernelSixth ^ 3 := by
  have hA : swuA = -120 * sqr kernelSixth := by decide +kernel
  have hB : swuB = 506 * cube kernelSixth := by decide +kernel
  simp only [swuG, hA, hB, toZ_add, toZ_mul, toZ_neg, toZ_sqr, toZ_cube, toZ_ofNat]
  ring

theorem toZ_isoXNum : 9 * toZ (isoXNum x) = toZ x ^ 3 - 12 * toZ kernelSixth * toZ x ^ 2 +
    12 * toZ kernelSixth ^ 2 * toZ x + 152 * toZ kernelSixth ^ 3 := by
  have h : toZ 9 * toZ (isoXNum x) = _ := toZ_scaled_cubic (k := kernelSixth) (-12) 12 152 (by decide +kernel)
    (by decide +kernel) (by decide +kernel) (by decide +kernel) x
  simp only [toZ_neg, toZ_ofNat] at h
  exact h.trans (by ring)

theorem toZ_isoYNum : 27 * toZ (isoYNum x) = toZ x ^ 3 - 18 * toZ kernelSixth * toZ x ^ 2 +
    132 * toZ kernelSixth ^ 2 * toZ x - 376 * toZ kernelSixth ^ 3 := by
  have h : toZ 27 * toZ (isoYNum x) = _ := toZ_scaled_cubic (k := kernelSixth) (-18) 132 (-376) (by decide +kernel)
    (by decide +kernel) (by decide +kernel) (by decide +kernel) x
  simp only [toZ_neg, toZ_ofNat] at h
  exact h.trans (by ring)

theorem toZ_isoXDen : toZ (isoXDen x) = (toZ x - 6 * toZ kernelSixth) ^ 2 := by
  have h (a₁ a₀ : Fp) (h₁ : a₁ = -12 * kernelSixth) (h₀ : a₀ = 36 * sqr kernelSixth) :
      toZ (sqr x + a₁ * x + a₀) = (toZ x - 6 * toZ kernelSixth) ^ 2 := by
    simp only [h₁, h₀, toZ_add, toZ_mul, toZ_neg, toZ_sqr, toZ_ofNat]
    ring
  exact h _ _ (by decide +kernel) (by decide +kernel)

theorem toZ_isoYDen : toZ (isoYDen x) = (toZ x - 6 * toZ kernelSixth) ^ 3 := by
  have h (a₂ a₁ a₀ : Fp) (h₂ : a₂ = -18 * kernelSixth) (h₁ : a₁ = 108 * sqr kernelSixth)
      (h₀ : a₀ = -216 * cube kernelSixth) :
      toZ (cube x + a₂ * sqr x + a₁ * x + a₀) = (toZ x - 6 * toZ kernelSixth) ^ 3 := by
    simp only [h₂, h₁, h₀, toZ_add, toZ_mul, toZ_neg, toZ_sqr, toZ_cube, toZ_ofNat]
    ring
  exact h _ _ _ (by decide +kernel) (by decide +kernel) (by decide +kernel)

end

/-- The identity behind the isogeny, with the numerators, the denominators and both curves in terms of x and κ. -/
theorem isogeny_identity {R : Type} [CommRing R] (x k : R) :
    (x ^ 3 - 120 * k ^ 2 * x + 506 * k ^ 3) * (x ^ 3 - 18 * k * x ^ 2 + 132 * k ^ 2 * x - 376 * k ^ 3) ^ 2 =
      (x ^ 3 - 12 * k * x ^ 2 + 12 * k ^ 2 * x + 152 * k ^ 3) ^ 3 + 1458 * k ^ 3 * (x - 6 * k) ^ 6 := by
  ring

section
variable {x y X Y : Fp}

/-- The quotients of R265 at a point of y² = x³ + A′·x + B′ lie on y² = x³ + 7. -/
theorem isogeny_equation (hd : isoYDen x ≠ 0) (hX : X * isoXDen x = isoXNum x) (hY : Y * isoYDen x = y * isoYNum x)
    (h : sqr y = swuG x) : sqr Y = cube X + 7 := by
  have : Fact (Nat.Prime p) := ⟨prime_p⟩
  have hd : toZ (27 * isoYDen x) ^ 2 ≠ 0 :=
    pow_ne_zero 2 ((toZ_ne_zero _).mpr (Fp.mul_ne_zero_of_ne (by decide) hd))
  rw [← toZ_inj] at hX hY h ⊢
  simp only [toZ_add, toZ_mul, toZ_sqr, toZ_cube, toZ_ofNat, toZ_isoXDen, toZ_isoYDen, toZ_swuG] at hX hY h hd ⊢
  have hid := isogeny_identity (toZ x) (toZ kernelSixth)
  rw [← toZ_isoXNum, ← toZ_isoYNum, ← hX] at hid
  refine mul_left_cancel₀ hd ?_
  linear_combination
    729 * (toZ Y * (toZ x - 6 * toZ kernelSixth) ^ 3 + toZ y * toZ (isoYNum x)) * hY + 729 * toZ (isoYNum x) ^ 2 * h +
      hid + 729 * (toZ x - 6 * toZ kernelSixth) ^ 6 * two_mul_kernelSixth_pow

/-! ## iso_map -/

theorem isoMap_of_den_eq_zero (h : isoXDen x = 0 ∨ isoYDen x = 0) : isoMap (x, y) = none := if_pos h

theorem isoMap_of_den_ne_zero (hx : isoXDen x ≠ 0) (hy : isoYDen x ≠ 0) :
    isoMap (x, y) = some (isoXNum x * invP (isoXDen x), y * isoYNum x * invP (isoYDen x)) :=
  if_neg (not_or.mpr ⟨hx, hy⟩)

/-- Away from its exceptional x, iso_map gives the two quotients, and takes points of the curve of R264 to points of E. -/
theorem exists_isoMap_eq_some (y : Fp) (hx : isoXDen x ≠ 0) (hy : isoYDen x ≠ 0) :
    ∃ X Y, isoMap (x, y) = some (X, Y) ∧ X * isoXDen x = isoXNum x ∧ Y * isoYDen x = y * isoYNum x ∧
      (sqr y = swuG x → sqr Y = cube X + 7) := by
  have hX := (eq_mul_invP_iff hx).mp (rfl : isoXNum x * invP (isoXDen x) = _)
  have hY := (eq_mul_invP_iff hy).mp (rfl : y * isoYNum x * invP (isoYDen x) = _)
  exact ⟨_, _, isoMap_of_den_ne_zero hx hy, hX, hY, isogeny_equation hy hX hY⟩

end

/-- Every field element is mapped to INF or to a point of E (R267). -/
theorem onCurveOrInf_mapped (u : Fp) : OnCurveOrInf (ofAffine (isoMap (sswu u))) := by
  by_cases hd : isoXDen (sswu u).1 = 0 ∨ isoYDen (sswu u).1 = 0
  · rw [← Prod.mk.eta (p := sswu u), isoMap_of_den_eq_zero hd]
    exact .inl rfl
  · obtain ⟨hx, hy⟩ := not_or.mp hd
    obtain ⟨X, Y, hmap, -, -, hcurve⟩ := exists_isoMap_eq_some (sswu u).2 hx hy
    rw [← Prod.mk.eta (p := sswu u), hmap]
    exact .inr (hcurve (sqr_sswu_snd u))

end Sys2Proof.Machine
end

section
/-! H2C: the uniform bytes of R262, the field elements of R263, and the sum of the mapped points (R261, R267). -/

namespace Sys2Proof.Machine

/-! ## expand_message_xmd -/

@[simp] theorem length_sha256 (m : List Byte) : (sha256 m).length = 32 := by simp [sha256, wordBytes]

theorem length_expandMessage (msg dst : List Byte) : (expandMessage msg dst).length = 96 := by
  simp [expandMessage, xmdB1, xmdNext]

/-- The first chunk of R263. -/
theorem fieldElement_zero (uniform : List Byte) : fieldElement uniform 0 = toFp (os2ip (uniform.take 48)) := rfl

/-- The second chunk of R263 is what follows the first 48 of the 96 bytes. -/
theorem fieldElement_one_expandMessage (msg dst : List Byte) :
    fieldElement (expandMessage msg dst) 1 = toFp (os2ip ((expandMessage msg dst).drop 48)) := by
  rw [fieldElement, List.take_of_length_le (by rw [List.length_drop, length_expandMessage])]

/-- DST_prime of the block's DST: its bytes and DSTLEN as one byte (R262). -/
theorem dstPrime_dstBytes (b : Block) : dstPrime b.dstBytes = b.dstBytes ++ [b.dstlen] := by
  have hlen : b.dstBytes.length = b.dstlen.toNat := by simp [Block.dstBytes, Memory.readBytes]
  have hbyte : i2osp b.dstlen.toNat 1 = [b.dstlen] := by simp [i2osp]
  rw [dstPrime, hlen, hbyte]

/-- R262 with the prefixes of its hashes written out. -/
theorem expandMessage_eq {msg dst dst' b0 b1 b2 b3 : List Byte} (hdst : dstPrime dst = dst')
    (h0 : b0 = sha256 (List.replicate 64 0 ++ msg ++ [0x00, 0x60, 0x00] ++ dst'))
    (h1 : b1 = sha256 (b0 ++ [0x01] ++ dst'))
    (h2 : b2 = sha256 (List.zipWith (· ^^^ ·) b0 b1 ++ [0x02] ++ dst'))
    (h3 : b3 = sha256 (List.zipWith (· ^^^ ·) b0 b2 ++ [0x03] ++ dst')) : expandMessage msg dst = b1 ++ b2 ++ b3 := by
  have hlen : i2osp 96 2 ++ i2osp 0 1 = [0x00, 0x60, 0x00] := by decide
  have hb0 : xmdB0 msg dst = b0 := by rw [xmdB0, hdst, List.append_assoc _ (i2osp 96 2), hlen, h0]
  have hb1 : xmdB1 msg dst = b1 := by rw [xmdB1, hdst, hb0, h1]; rfl
  have hb2 : xmdNext msg dst 2 b1 = b2 := by rw [xmdNext, hdst, hb0, h2]; rfl
  have hb3 : xmdNext msg dst 3 b2 = b3 := by rw [xmdNext, hdst, hb0, h3]; rfl
  simp only [expandMessage, hb1, hb2, hb3]

/-! ## The outcome -/

section
variable {b : Block} {rd : Reg}

theorem h2cOutcome_of_tooLong (h : 1024 < b.msglen.toNat) : h2cOutcome rd b = .error .size :=
  if_pos (b.msgTooLong_iff.mpr h)

section
variable (h : b.msglen.toNat ≤ 1024)
include h

theorem h2cOutcome_of_no_dst (h0 : b.dstlen = 0) : h2cOutcome rd b = .error .length :=
  (if_neg (not_msgTooLong h)).trans (if_pos h0)

theorem h2cOutcome_of_fits (h0 : b.dstlen ≠ 0) :
    h2cOutcome rd b = okTriple rd (hashToCurve b.msgBytes b.dstBytes) :=
  (if_neg (not_msgTooLong h)).trans (if_neg h0)

end

end

theorem exec_h2c (rd : Reg) (s : State) : exec (.h2c rd) s = s.finish (h2cOutcome rd s.toBlock) := rfl

/-- The normalised sum of two mapped points is INF or a point of E (R267). -/
theorem onCurveOrInf_hashToCurve (msg dst : List Byte) : OnCurveOrInf (hashToCurve msg dst) := by
  have : Fact (Nat.Prime p) := ⟨prime_p⟩
  have hpoint (u : Fp) : ∃ P : secp.Point, Denotes (ofAffine (isoMap (sswu u))) P :=
    (onCurveOrInf_iff_exists_denotes _).mp (onCurveOrInf_mapped u)
  obtain ⟨P, hP⟩ := hpoint (fieldElement (expandMessage msg dst) 0)
  obtain ⟨Q, hQ⟩ := hpoint (fieldElement (expandMessage msg dst) 1)
  exact (onCurveOrInf_iff_exists_denotes _).mpr ⟨P + Q, denotes_normal (denotes_paddF hP hQ)⟩

/-! ## The obligations -/

/-- Settles O45: of x1 and x2 the map selects one with a square right-hand side, whose root takes the parity of u; the
isogeny's quotients satisfy the identity in κ. -/
theorem sswuAndIsogenyMapPoints : Obligations.SswuAndIsogenyMapPoints := by
  unfold Obligations.SswuAndIsogenyMapPoints
  refine ⟨fun u tv x1 x2 htv hne hzero hx2 => ?_, ?_⟩
  · have htv : tv = swuDenominator u := by rw [swuDenominator, swuZ_eq]; exact htv
    have hx1 : x1 = swuX1 u := by
      by_cases h0 : swuDenominator u = 0
      · rw [eq_swuX1_iff_of_denominator_eq_zero h0, swuZ_eq]
        exact hzero (htv.trans h0)
      · rw [eq_swuX1_iff_of_denominator_ne_zero h0, ← htv]
        exact hne (htv ▸ h0)
    have hx2 : x2 = swuZ * sqr u * swuX1 u := by rw [hx2, hx1, swuZ_eq]; rfl
    have hfst : (sswu u).1 = swuX u := by rw [sswu_eq]
    refine ⟨_, _, Prod.mk.eta.symm, sqr_sswu_snd u, sgn0_sswu_snd u, fun hsq => ?_, fun hsq => ?_⟩
    · rw [hx1] at hsq ⊢
      exact hfst.trans (if_pos ((isSquare_iff _).mpr hsq))
    · rw [hx1] at hsq
      rw [hx2]
      exact hfst.trans (if_neg ((isSquare_iff _).not.mpr hsq))
  · intro x y xn xd yn yd hxn hxd hyn hyd
    obtain rfl : xn = isoXNum x := hxn
    obtain rfl : xd = isoXDen x := hxd
    obtain rfl : yn = isoYNum x := hyn
    obtain rfl : yd = isoYDen x := hyd
    exact ⟨isoMap_of_den_eq_zero, exists_isoMap_eq_some y⟩

/-- Settles O46: the two length checks, then hash_to_curve on the bytes of the block. -/
theorem h2cHashesToCurve : Obligations.H2cHashesToCurve := by
  unfold Obligations.H2cHashesToCurve
  intro rd s msg dst b0 b1 b2 b3 hmsg hdst h0 h1 h2 h3
  have hexec := exec_h2c rd s
  refine ⟨encodedAs_of_encode (pack_eq_cmdWord 0x60 0 rd 0 0 0), fun hlong => ?_, fun hfits hd => ?_, fun hfits hd => ?_⟩
  · rw [h2cOutcome_of_tooLong hlong] at hexec
    exact failsWith_of_exec_error hexec
  · rw [h2cOutcome_of_no_dst hfits hd] at hexec
    exact failsWith_of_exec_error hexec
  · rw [h2cOutcome_of_fits hfits hd] at hexec
    obtain ⟨t, ht, hw⟩ := writesTriple_of_exec_okTriple hexec
    refine ⟨_, t, ht, hw, normalised_normal _, ?_⟩
    have hbytes : s.msgBytes = msg := hmsg.symm
    have hprime : dstPrime s.dstBytes = dst := (dstPrime_dstBytes s.toBlock).trans hdst.symm
    have huniform := expandMessage_eq (msg := s.msgBytes) hprime (hbytes ▸ h0) h1 h2 h3
    rw [hashToCurve, fieldElement_one_expandMessage, fieldElement_zero, huniform]

/-- Settles O47: past the length checks the command writes `hashToCurve`, which is INF or on the curve. -/
theorem h2cResultOnCurve : Obligations.H2cResultOnCurve := by
  unfold Obligations.H2cResultOnCurve
  intro rd s t _ h herr
  have hfail {c : ErrCode} (hc : h2cOutcome rd s.toBlock = .error c) : False := by
    rw [exec_h2c, hc] at h
    cases Host.Outcome.next.inj h
    exact absurd herr (by simp [Block.complete_error])
  by_cases hfits : s.msglen.toNat ≤ 1024
  · by_cases hd : s.dstlen = 0
    · exact (hfail (h2cOutcome_of_no_dst hfits hd)).elim
    · rw [exec_h2c, h2cOutcome_of_fits hfits hd] at h
      cases Host.Outcome.next.inj h
      rw [(writesTriple_complete_okTriple s rd _).triple_eq]
      exact onCurveOrInf_hashToCurve _ _
  · exact (hfail (h2cOutcome_of_tooLong (Nat.not_le.mp hfits))).elim

end Sys2Proof.Machine
end

section
/-! Which errors each command can raise (R287), outcome by outcome. -/

namespace Sys2Proof.Machine

/-- An outcome, or a part of one, raises no error but those of l. -/
def RaisesOnly {α : Type} (l : List ErrCode) (r : Except ErrCode α) : Prop := ∀ c, r = .error c → c ∈ l

section
variable {α : Type} {l : List ErrCode} {rd : Reg}

theorem raisesOnly_ok (a : α) : RaisesOnly l (.ok a) := nofun

theorem raisesOnly_error {c : ErrCode} (h : c ∈ l) : RaisesOnly (α := α) l (.error c) :=
  fun _ he => Except.error.inj he ▸ h

theorem RaisesOnly.mono {l' : List ErrCode} {r : Except ErrCode α} (h : RaisesOnly l r) (hl : l ⊆ l') :
    RaisesOnly l' r :=
  fun c hc => hl (h c hc)

/-- A check that raises a listed error before the rest. -/
theorem raisesOnly_guard {c : Prop} [Decidable c] {e : ErrCode} {r : Except ErrCode α} (he : e ∈ l)
    (h : RaisesOnly l r) : RaisesOnly l (if c then .error e else r) := by
  split
  · exact raisesOnly_error he
  · exact h

/-! ## Modular and point arithmetic -/

theorem raisesOnly_modmulOutcome (a b m : Nat) : RaisesOnly [.domain] (modmulOutcome rd a b m) :=
  raisesOnly_guard (by decide) (raisesOnly_ok _)

theorem raisesOnly_modinvOutcome (a m : Nat) : RaisesOnly [.domain] (modinvOutcome rd a m) :=
  raisesOnly_guard (by decide) (raisesOnly_guard (by decide) (raisesOnly_ok _))

theorem raisesOnly_modexpOutcome (b e m : Nat) : RaisesOnly [.domain] (modexpOutcome rd b e m) :=
  raisesOnly_guard (by decide) (raisesOnly_ok _)

theorem raisesOnly_paffOutcome (T : Triple) : RaisesOnly [.state] (paffOutcome rd T) := by
  unfold paffOutcome
  split
  · exact raisesOnly_error (by decide)
  · exact raisesOnly_ok _

theorem raisesOnly_pmulOutcome (T : Triple) (k : Nat) : RaisesOnly [.domain] (pmulOutcome rd T k) := by
  by_cases hT : OnCurveOrInf T
  · rw [pmulOutcome_of_onCurveOrInf rd k hT]
    exact raisesOnly_ok _
  · rw [pmulOutcome_of_not_onCurveOrInf rd k hT]
    exact raisesOnly_error (by decide)

/-- A multiple of G raises nothing, because G is on the curve (R183). -/
theorem raisesOnly_pmulOutcome_G (k : Nat) : RaisesOnly [] (pmulOutcome rd G k) := by
  rw [pmulOutcome_of_onCurveOrInf rd k onCurveOrInf_G]
  exact raisesOnly_ok _

/-! ## Encodings (R193 to R196) -/

theorem raisesOnly_pencXOutcome (T : Triple) : RaisesOnly [.state] (pencXOutcome T) := by
  unfold pencXOutcome
  split
  · exact raisesOnly_error (by decide)
  · exact raisesOnly_ok _

theorem raisesOnly_liftTriple (xv par : Nat) : RaisesOnly [.domain] (liftTriple xv par) := by
  unfold liftTriple
  split
  · exact raisesOnly_error (by decide)
  · exact raisesOnly_ok _

theorem raisesOnly_decodeCompressed (bytes : List Byte) : RaisesOnly [.length, .domain] (decodeCompressed bytes) := by
  unfold decodeCompressed
  split
  · exact raisesOnly_ok _
  · split
    · exact (raisesOnly_liftTriple _ _).mono (List.subset_cons_self ..)
    · exact raisesOnly_error (by decide)

theorem raisesOnly_decodeUncompressed (bytes : List Byte) :
    RaisesOnly [.length, .domain] (decodeUncompressed bytes) := by
  unfold decodeUncompressed
  split
  · exact raisesOnly_ok _
  · split
    · exact raisesOnly_guard (by decide) (raisesOnly_ok _)
    · exact raisesOnly_error (by decide)

theorem raisesOnly_sec1Decode (b : Block) : RaisesOnly [.size, .length, .domain] (sec1Decode b) := by
  refine raisesOnly_guard (by decide) ?_
  split
  · exact (raisesOnly_decodeCompressed _).mono (List.subset_cons_self ..)
  · split
    · exact (raisesOnly_decodeUncompressed _).mono (List.subset_cons_self ..)
    · exact raisesOnly_error (by decide)

theorem raisesOnly_xonlyDecode (b : Block) : RaisesOnly [.size, .length, .domain] (xonlyDecode b) :=
  have hl : [ErrCode.domain] ⊆ [.size, .length, .domain] := by decide
  raisesOnly_guard (by decide) (raisesOnly_guard (by decide) ((raisesOnly_liftTriple _ _).mono hl))

theorem raisesOnly_pdecOutcome {r : Except ErrCode Triple} (h : RaisesOnly l r) : RaisesOnly l (pdecOutcome rd r) := by
  cases r with
  | error c => exact raisesOnly_error (h c rfl)
  | ok T => exact raisesOnly_ok _

theorem raisesOnly_h2cOutcome (b : Block) : RaisesOnly [.size, .length] (h2cOutcome rd b) :=
  raisesOnly_guard (by decide) (raisesOnly_guard (by decide) (raisesOnly_ok _))

/-! ## Signatures (45_signatures.md) -/

theorem raisesOnly_signOutcome {r : Except ErrCode (List Byte)} (h : RaisesOnly l r) : RaisesOnly l (signOutcome r) := by
  cases r with
  | error c => exact raisesOnly_error (h c rfl)
  | ok sig => exact raisesOnly_ok _

theorem raisesOnly_ecdsaCore (d z k : Nat) : RaisesOnly [.domain] (ecdsaCore Config.ecdsaLowS d z k) := by
  by_cases h : scalarOk d = true ∧ nonceOk d z k = true
  · rw [ecdsaCore_of_accepted h.1 h.2]
    exact raisesOnly_ok _
  · rw [ecdsaCore_of_rejected h]
    exact raisesOnly_error (by decide)

theorem raisesOnly_bip340Sign (d : Nat) (a m : List Byte) : RaisesOnly [.domain] (bip340Sign d a m) :=
  fun _ h => List.mem_singleton.mpr (eq_domain_of_bip340Sign_error h)

theorem raisesOnly_schnorrSignOutcome (d : Nat) (a : List Byte) (b : Block) :
    RaisesOnly [.size, .domain] (schnorrSignOutcome d a b) :=
  raisesOnly_guard (by decide)
    (raisesOnly_signOutcome ((raisesOnly_bip340Sign _ _ _).mono (List.subset_cons_self ..)))

theorem raisesOnly_tweakSec (d : Nat) (root : List Byte) : RaisesOnly [.domain] (tweakSec d root) :=
  raisesOnly_guard (by decide)
    (raisesOnly_guard (by decide) (raisesOnly_guard (by decide) (raisesOnly_ok _)))

theorem raisesOnly_tweakPub (px : Nat) (root : List Byte) : RaisesOnly [.domain] (tweakPub px root) := by
  unfold tweakPub
  split
  · exact raisesOnly_error (by decide)
  · refine raisesOnly_guard (by decide) ?_
    split
    · exact raisesOnly_error (by decide)
    · exact raisesOnly_ok _

theorem raisesOnly_tapSignOutcome (d : Nat) (root a : List Byte) (b : Block) :
    RaisesOnly [.size, .domain] (tapSignOutcome d root a b) := by
  refine raisesOnly_guard (by decide) ?_
  split
  · next c h => exact raisesOnly_error (List.mem_cons_of_mem _ (raisesOnly_tweakSec d root c h))
  · exact raisesOnly_signOutcome ((raisesOnly_bip340Sign _ _ _).mono (List.subset_cons_self ..))

theorem raisesOnly_tweakOutcome (px : Nat) (root : List Byte) : RaisesOnly [.domain] (tweakOutcome rd px root) := by
  unfold tweakOutcome
  split
  · next c h => exact raisesOnly_error (raisesOnly_tweakPub px root c h)
  · exact raisesOnly_ok _

theorem raisesOnly_recoverOutcome (z : Nat) (b : Block) : RaisesOnly [.size, .length] (recoverOutcome rd z b) := by
  refine raisesOnly_guard (by decide) (raisesOnly_guard (by decide) ?_)
  split
  · exact raisesOnly_ok _
  · exact raisesOnly_ok _

theorem raisesOnly_ecdsaVerifyOutcome (Q : Triple) (z : Nat) (b : Block) :
    RaisesOnly [.size, .length] (ecdsaVerifyOutcome Q z b) :=
  raisesOnly_guard (by decide) (raisesOnly_guard (by decide) (raisesOnly_ok _))

theorem raisesOnly_verifyOutcome (b : Block) (pred : List Byte → List Byte → Bool) :
    RaisesOnly [.size, .length] (verifyOutcome b pred) :=
  raisesOnly_guard (by decide) (raisesOnly_guard (by decide) (raisesOnly_ok _))

end

/-! ## Commands -/

/-- A command's run ends in one completion that raises only errors of l, or in a rejection loop over such completions. -/
inductive RunRaisesOnly (l : List ErrCode) (s : State) : Host.Outcome State Fault Refusal → Prop
  | finish {o : EngineOutcome} (h : RaisesOnly l o) : RunRaisesOnly l s (s.finish o)
  | finishDrawn {accept : Nat → Bool} {f : Nat → EngineOutcome} (h : ∀ v, RaisesOnly l (f v)) :
      RunRaisesOnly l s (s.finishDrawn accept f)

/-- R287, row by row. -/
theorem exec_runRaisesOnly (i : Instr) (s : State) : RunRaisesOnly (listedErrors i) s (exec i s) := by
  cases i with
  | nop | ldc | padd | pdbl | pneg | psub | pencC | pencU | pvalid | peq => exact .finish (raisesOnly_ok _)
  | modmul | modmulS => exact .finish (raisesOnly_modmulOutcome _ _ _)
  | modinv | modinvS => exact .finish (raisesOnly_modinvOutcome _ _)
  | modexp | modexpS => exact .finish (raisesOnly_modexpOutcome _ _ _)
  | paff => exact .finish (raisesOnly_paffOutcome _)
  | pmul | pmulS => exact .finish (raisesOnly_pmulOutcome _ _)
  | pmulg | pmulgS => exact .finish (raisesOnly_pmulOutcome_G _)
  | pencX => exact .finish (raisesOnly_pencXOutcome _)
  | pdec => exact .finish (raisesOnly_pdecOutcome (raisesOnly_sec1Decode _))
  | pdecX => exact .finish (raisesOnly_pdecOutcome (raisesOnly_xonlyDecode _))
  | keygen => exact .finishDrawn fun _ => raisesOnly_ok _
  | ecdsaSign => exact .finish (raisesOnly_signOutcome (raisesOnly_ecdsaCore _ _ _))
  | ecdsaSignR rs1 rs2 =>
    cases hd : scalarOk (s.val rs1) with
    | false =>
      rw [exec_ecdsaSignR_of_bad_secret _ _ _ hd]
      exact .finish (raisesOnly_error (List.mem_singleton_self _))
    | true =>
      rw [exec_ecdsaSignR_of_secret _ _ _ hd]
      exact .finishDrawn fun _ => raisesOnly_signOutcome (raisesOnly_ecdsaCore _ _ _)
  | ecdsaVerify => exact .finish (raisesOnly_ecdsaVerifyOutcome _ _ _)
  | ecdsaRecover => exact .finish (raisesOnly_recoverOutcome _ _)
  | schnorrSign => exact .finish (raisesOnly_schnorrSignOutcome _ _ _)
  | tapTweak | tapTweakN => exact .finish (raisesOnly_tweakOutcome _ _)
  | tapSign | tapSignN => exact .finish (raisesOnly_tapSignOutcome _ _ _ _)
  | schnorrVerify | tapVerify | tapVerifyN => exact .finish (raisesOnly_verifyOutcome _ _)
  | h2c => exact .finish (raisesOnly_h2cOutcome _)

/-- A command stays in flight, or it completes with an outcome that raises only what its row of R287 lists. -/
theorem exec_next_listed {i : Instr} {s t : State} (h : exec i s = .next t) :
    t.toBlock = s.toBlock ∨ ∃ o, RaisesOnly (listedErrors i) o ∧ t.toBlock = s.toBlock.complete o := by
  have hrun := exec_runRaisesOnly i s
  generalize exec i s = r at h hrun
  cases hrun with
  | finish ho =>
    cases Host.Outcome.next.inj h
    exact .inr ⟨_, ho, rfl⟩
  | @finishDrawn accept f hf =>
    obtain ⟨ds, k, ⟨v, -, hv⟩ | hn⟩ := s.finishDrawn_cases accept f
    · cases Host.Outcome.next.inj (h.symm.trans hv)
      exact .inr ⟨_, hf v, rfl⟩
    · cases Host.Outcome.next.inj (h.symm.trans hn)
      exact .inl rfl

end Sys2Proof.Machine
end

section
/-! Errors are listed and precise (R287, R288), and what ends a command in flight (R313, R333). -/

namespace Sys2Proof.Machine

theorem SameData.refl (b : Block) : SameData b b := ⟨rfl, fun _ => rfl, rfl, rfl, rfl, rfl⟩

/-- Settles O8: a command that leaves flight completes with an outcome within its row of R287, and an error outcome writes
the flags alone. -/
theorem errorsAreListedAndPrecise : Obligations.ErrorsAreListedAndPrecise := by
  unfold Obligations.ErrorsAreListedAndPrecise
  intro i s t hb h hidle herr
  obtain hsame | ⟨o, ho, hcomp⟩ := exec_next_listed h
  · rw [hsame, hb] at hidle
    cases hidle
  · rw [hcomp] at herr ⊢
    cases o with
    | ok e => exact absurd herr (by simp [Block.complete_ok])
    | error c => exact ⟨⟨c, ho c rfl, rfl⟩, rfl, rfl, (failsWith_complete_error s c).data⟩

/-! ## Steps -/

/-- Every step answers a next state, whatever the event (R280, R294). -/
theorem exists_step_next (s : State) : ∃ t, step s = .next t := by
  obtain ⟨-, he⟩ | ⟨m, -, he⟩ | ⟨-, he⟩ := step_cases s
  · obtain ⟨ds, k, ⟨-, o, hn⟩ | hn⟩ := engineTurn_next s.past
    · exact ⟨_, he.trans hn⟩
    · exact ⟨_, he.trans hn⟩
  · exact ⟨_, he⟩
  · exact ⟨_, he⟩

/-- Settles O7: the kinds of event all answer, and a command that draws nothing ends in one completion, whose code is that of
its outcome. -/
theorem stepsAnswerAndCommandsComplete : Obligations.StepsAnswerAndCommandsComplete := by
  unfold Obligations.StepsAnswerAndCommandsComplete
  refine ⟨exists_step_next, fun i s hd => ?_⟩
  obtain ⟨o, h⟩ := exec_undrawn i s hd
  obtain ⟨hbusy, hdone⟩ := s.complete_idle o
  refine ⟨_, h, hbusy, hdone, ⟨rfl, rfl, rfl⟩, ⟨rfl, rfl⟩, ?_⟩
  cases o with
  | ok e => exact .inl ⟨rfl, rfl⟩
  | error c =>
    have hpos : 1 ≤ c.code.toNat := by cases c <;> decide
    exact .inr ⟨rfl, hpos, c.code_le, (failsWith_complete_error s c).data⟩

/-- The soft reset is a write of CTRL with bit 1 set (R42, R312). -/
theorem ctrl_of_isSoftReset {o : Offset} {w : Word} (h : isSoftReset o w = true) : o = 0x004 ∧ w.getLsbD 1 = true := by
  obtain ⟨hword, hw⟩ := Bool.and_eq_true_iff.mp h
  refine ⟨by_contra fun hne => ?_, hw⟩
  have hctrl : windowWord o = .ctrl := beq_iff_eq.mp hword
  simp only [windowWord, if_neg hne] at hctrl
  split_ifs at hctrl

/-- While BUSY = 1 a write moves CTRL.IE and the W1C bits of STATUS, and nothing else of the block (R80). -/
theorem Block.writeWord_in_flight (b : Block) (o : Offset) (w : Word) (hb : b.busy = true) :
    ∃ ie done err ovr wbusy, b.writeWord o w =
      { b with ie := ie, done := done, err := err, ovr := ovr, wbusy := wbusy } := by
  unfold Block.writeWord
  cases windowWord o with
  | id | errcode | result | reserved | ctrl | status => exact ⟨_, _, _, _, _, rfl⟩
  | cmd =>
    dsimp only
    rw [if_pos hb]
    exact ⟨_, _, _, _, _, rfl⟩
  | buflen | msglen | dstlen | data =>
    dsimp only
    rw [b.guardBusy_busy _ hb]
    exact ⟨_, _, _, _, _, rfl⟩

/-- Settles O59: an engine turn completes the command or goes on drawing, and of the host's accesses only a CTRL write can
touch more than flags. -/
theorem onlyCompletionOrResetEndsCommand : Obligations.OnlyCompletionOrResetEndsCommand := by
  unfold Obligations.OnlyCompletionOrResetEndsCommand
  intro s t hb h
  obtain ⟨hn, he⟩ | ⟨m, hm, he⟩ | ⟨hr, he⟩ := step_cases s
  · obtain ⟨ds, k, ⟨-, o, hturn⟩ | hturn⟩ := engineTurn_next s.past
    · cases Host.Outcome.next.inj (h.symm.trans (he.trans hturn))
      exact .inl ⟨hn, s.complete_idle o⟩
    · cases Host.Outcome.next.inj (h.symm.trans (he.trans hturn))
      exact .inr (.inr ⟨hb, rfl, rfl, .refl _⟩)
  · cases Host.Outcome.next.inj (h.symm.trans he)
    obtain ⟨k, r, hmove⟩ | ⟨o, w, -, -, -, hmove⟩ | ⟨o, w, rfl, -, hreset, hmove⟩ := s.past.hostMove_cases m
    · rw [hmove]
      exact .inr (.inr ⟨hb, rfl, rfl, .refl _⟩)
    · obtain ⟨ie, done, err, ovr, wbusy, hwrite⟩ := s.writeWord_in_flight o w hb
      rw [hmove, show s.past.writeWord o w = _ from hwrite]
      exact .inr (.inr ⟨hb, rfl, rfl, ⟨rfl, fun _ => rfl, rfl, rfl, rfl, rfl⟩⟩)
    · obtain ⟨rfl, hw⟩ := ctrl_of_isSoftReset hreset
      rw [hmove]
      exact .inr (.inl ⟨.inr ⟨w, hw, hm⟩, rfl⟩)
  · cases Host.Outcome.next.inj (h.symm.trans he)
    exact .inr (.inl ⟨.inl hr, rfl⟩)

/-- A step takes one event. -/
theorem script_of_step {s t : State} (h : step s = .next t) : t.script = s.script.tail := by
  obtain ⟨-, he⟩ | ⟨m, -, he⟩ | ⟨-, he⟩ := step_cases s
  · obtain ⟨ds, k, ⟨-, o, hn⟩ | hn⟩ := engineTurn_next s.past
    · cases Host.Outcome.next.inj (h.symm.trans (he.trans hn))
      rfl
    · cases Host.Outcome.next.inj (h.symm.trans (he.trans hn))
      rfl
  · cases Host.Outcome.next.inj (h.symm.trans he)
    obtain ⟨k, r, hm⟩ | ⟨o, w, -, -, -, hm⟩ | ⟨o, w, -, -, -, hm⟩ := s.past.hostMove_cases m
    · rw [hm]
      rfl
    · rw [hm]
      rfl
    · rw [hm]
      rfl
  · cases Host.Outcome.next.inj (h.symm.trans he)
    rfl

/-! ## A bounded end (R333) -/

/-- The word w is illegal or a command that draws nothing (R125, R128). -/
def Undrawn (w : Word) : Prop := ∀ i, decode w = .ok i → draws i = false

/-- The engine's turn ends a word in flight that is no drawing command, legal or not (R124, R128). -/
theorem exists_idle_of_engineNext {s : State} (hn : EngineNext s) (hb : s.busy = true) (hu : Undrawn s.cmdlast) :
    ∃ t, step s = .next t ∧ t.busy = false := by
  rw [step_engine s hn]
  cases hword : decode s.cmdlast with
  | error c => exact ⟨_, engineTurn_of_illegal s.past hb hword, rfl⟩
  | ok i =>
    obtain ⟨o, ho⟩ := exec_undrawn i s.past (hu i hword)
    exact ⟨_, (engineTurn_of_legal s.past hb hword).trans ho, (s.complete_idle o).1⟩

theorem run_succ {s t : State} (h : step s = .next t) (k : Nat) :
    Sys2Proof.core.run (k + 1) s = Sys2Proof.core.run k t := by
  have hstep : Sys2Proof.core.step s = .next t := h
  simp only [Host.Core.run, hstep]

/-- Settles O60, by induction on the events ahead: a step ends the word in flight or leaves it with one event less ahead, and
with none ahead it is the engine's turn. -/
theorem inFlightCommandEnds : Obligations.InFlightCommandEnds := by
  unfold Obligations.InFlightCommandEnds
  intro s hb hu
  induction hs : s.script generalizing s with
  | nil =>
    obtain ⟨t, ht, hidle⟩ := exists_idle_of_engineNext (.inl hs) hb hu
    exact ⟨1, t, le_rfl, run_succ ht 0, hidle⟩
  | cons e rest ih =>
    obtain ⟨t, ht⟩ := exists_step_next s
    cases hidle : t.busy with
    | false => exact ⟨1, t, by simp, run_succ ht 0, hidle⟩
    | true =>
      have hcmd : t.cmdlast = s.cmdlast := by
        obtain ⟨-, hend, -⟩ | ⟨-, hreset⟩ | ⟨-, hcmd, -, -⟩ := onlyCompletionOrResetEndsCommand s t hb ht
        · exact absurd (hidle.symm.trans hend) (by decide)
        · rw [hreset] at hidle
          cases hidle
        · exact hcmd
      have hrest : t.script = rest := (script_of_step ht).trans (by rw [hs, List.tail_cons])
      obtain ⟨k, u, hk, hrun, hend⟩ := ih t hidle (hcmd ▸ hu) hrest
      exact ⟨k + 1, u, Nat.succ_le_succ hk, (run_succ ht k).trans hrun, hend⟩

end Sys2Proof.Machine
end
